-- ==== Sys2Proof/Word.lean ====
section
/-! DEFINITION. The word types of QRPD. Every value is an unsigned integer of a fixed width (00_scope.md R9, R11). -/

namespace Sys2Proof

/-- One byte of a buffer or of the output (20_memory.md R61, R62). -/
abbrev Byte := BitVec 8

/-- The 16-bit registers OFFSET, REM, OUT_PTR, IN_LEN, ERR_INFO and the host byte address (00_scope.md R9). -/
abbrev Half := BitVec 16

/-- The host bus data word (20_memory.md R70). -/
abbrev Word := BitVec 32

end Sys2Proof
end

