-- ==== Sys2Proof/Config.lean ====
section
/-! DEFINITION. What an instance of QRPD fixes (00_scope.md R8), and the free values the spec leaves open. -/

namespace Sys2Proof

/-- NUMERIC_OVERRANGE: what a numeric group whose value has too many digits does (00_scope.md R8, 42_numeric.md R176). -/
inductive Overrange where
  | wide
  | fault
deriving DecidableEq, Repr

/-- The three named parameters of an instance (00_scope.md R8). They are held in State, where no step writes them. -/
structure Params where
  inCap  : Nat
  outCap : Nat
  numOvr : Overrange
deriving DecidableEq, Repr

/-- The default of every parameter: the reference instance (00_scope.md R8). -/
def Params.default : Params := { inCap := 4096, outCap := 16384, numOvr := .wide }

/-- The legal parameter values of 00_scope.md R8: `1 ≤ IN_CAP ≤ 8191` and `⌈16·IN_CAP/5⌉ ≤ OUT_CAP ≤ 32768`. -/
def Params.legal (p : Params) : Bool :=
  decide (1 ≤ p.inCap) && decide (p.inCap ≤ 8191) && decide ((16 * p.inCap + 4) / 5 ≤ p.outCap) && decide (p.outCap ≤ 32768)

/-- Free value: byte `a` of IN_MEM where nothing has written it since the last reset (70_reset_and_hazards.md R309, 93 U6),
after the resets whose record is given: one pair for each, newest first, of what stood written in IN_MEM and in OUT_MEM.
DESIGN CHOICE of form, log 5: safe, no proof can see the value. -/
opaque Config.inMemDraw : List (List Host.Cell × List Host.Cell) → Nat → Byte

/-- Free value: byte `a` of OUT_MEM where nothing has written it since the last reset (10_state.md R44, 93 U7), after the
same record of resets. DESIGN CHOICE of form, log 6: safe, no proof can see the value. -/
opaque Config.outMemDraw : List (List Host.Cell × List Host.Cell) → Nat → Byte

/-- Free value: which of the admitted offsets the `n`-th read of BIT_OFFSET while BUSY returns (10_state.md R37,
70_reset_and_hazards.md R312, 93 U9). DESIGN CHOICE of form, log 8: safe, no proof can see the value. -/
opaque Config.bitOffsetPick : Nat → Nat

end Sys2Proof
end

