-- ==== Sys2Proof/Syntax.lean ====
section
/-! DEFINITION. The instructions of QRPD: every row of spec/opcode_table.json is a constructor of Instr. An instruction is
one stream element (00_scope.md R3) or one host access (46_host_commands.md R240). -/

namespace Sys2Proof

/-- PHASE, a 2-bit register (10_state.md R23). `phase3` is the value 3, which is never written (93 U14). -/
inductive Phase where
  | dispatch
  | segLen
  | segBody
  | phase3
deriving DecidableEq, Repr

/-- MODE, a 2-bit register (10_state.md R24). `mode3` is the value 3, which is never written (93 U14). -/
inductive Mode where
  | num
  | alnum
  | byte
  | mode3
deriving DecidableEq, Repr

/-- The three ranges of valid versions (30_encoding.md R94). -/
inductive Band where
  | b1
  | b2
  | b3
deriving DecidableEq, Repr

/-- The two host access widths, 1 and 4 bytes (20_memory.md R72, R73). -/
inductive BusWidth where
  | w8
  | w32
deriving DecidableEq, Repr

/-- How many bytes an access moves. -/
def BusWidth.bytes : BusWidth → Nat
  | .w8 => 1
  | .w32 => 4

/-- One host bus access: MemRead(a, n) or MemWrite(a, n, v) (20_memory.md R72, R73). -/
inductive HostAccess where
  | read (n : BusWidth) (a : Half)
  | write (n : BusWidth) (a : Half) (v : Word)
deriving DecidableEq, Repr

/-- The byte address of an access. -/
def HostAccess.addr : HostAccess → Half
  | .read _ a => a
  | .write _ a _ => a

/-- The width of an access. -/
def HostAccess.busWidth : HostAccess → BusWidth
  | .read n _ => n
  | .write n _ _ => n

/-- The instructions. A stream field is an operand of exactly its width; a CTRL write carries its ignored bits; a
register is named by its word index a[5:2]; a window byte by its index in the window. -/
inductive Instr where
  /-- TERM: tag 0000 (R143). -/
  | term
  /-- NUM: tag 0001 (R144). -/
  | num
  /-- ALNUM: tag 0010 (R145). -/
  | alnum
  /-- BYTE: tag 0100 (R146). -/
  | byte
  /-- UNSUP.0011: tag 0011 (R147). -/
  | unsup0011
  /-- UNSUP.0101: tag 0101 (R147). -/
  | unsup0101
  /-- UNSUP.0110: tag 0110 (R147). -/
  | unsup0110
  /-- UNSUP.0111: tag 0111 (R147). -/
  | unsup0111
  /-- UNSUP.1000: tag 1000 (R147). -/
  | unsup1000
  /-- UNSUP.1001: tag 1001 (R147). -/
  | unsup1001
  /-- UNSUP.1010: tag 1010 (R147). -/
  | unsup1010
  /-- UNSUP.1011: tag 1011 (R147). -/
  | unsup1011
  /-- UNSUP.1100: tag 1100 (R147). -/
  | unsup1100
  /-- UNSUP.1101: tag 1101 (R147). -/
  | unsup1101
  /-- UNSUP.1110: tag 1110 (R147). -/
  | unsup1110
  /-- UNSUP.1111: tag 1111 (R147). -/
  | unsup1111
  /-- EOS: fewer than 4 bits left at a tag (R142). -/
  | eos
  /-- LEN.NUM.B1: 10-bit length field (R148). -/
  | lenNumB1 (l : BitVec 10)
  /-- LEN.NUM.B2: 12-bit length field (R148). -/
  | lenNumB2 (l : BitVec 12)
  /-- LEN.NUM.B3: 14-bit length field (R148). -/
  | lenNumB3 (l : BitVec 14)
  /-- LEN.ALNUM.B1: 9-bit length field (R148). -/
  | lenAlnumB1 (l : BitVec 9)
  /-- LEN.ALNUM.B2: 11-bit length field (R148). -/
  | lenAlnumB2 (l : BitVec 11)
  /-- LEN.ALNUM.B3: 13-bit length field (R148). -/
  | lenAlnumB3 (l : BitVec 13)
  /-- LEN.BYTE.B1: 8-bit length field (R148). -/
  | lenByteB1 (l : BitVec 8)
  /-- LEN.BYTE.B2: 16-bit length field (R148). -/
  | lenByteB2 (l : BitVec 16)
  /-- LEN.BYTE.B3: 16-bit length field (R148). -/
  | lenByteB3 (l : BitVec 16)
  /-- LEN.BADVERSION: a segment entered with VERSION outside 1..40 (R148). -/
  | lenBadVersion
  /-- N3: numeric triple (R171). -/
  | n3 (v : BitVec 10)
  /-- N2: numeric pair (R172). -/
  | n2 (v : BitVec 7)
  /-- N1: numeric single (R173). -/
  | n1 (v : BitVec 4)
  /-- A2: alphanumeric pair (R192). -/
  | a2 (v : BitVec 11)
  /-- A1: alphanumeric single (R193). -/
  | a1 (v : BitVec 6)
  /-- B8: byte octet (R211). -/
  | b8 (v : BitVec 8)
  /-- START: CTRL write with v[1:0] = 01, v[31:2] = hi (R241). -/
  | start (hi : BitVec 30)
  /-- CLEAR: CTRL write with v[1] = 1, v[0] = lo, v[31:2] = hi (R242, R243). -/
  | clear (lo : BitVec 1) (hi : BitVec 30)
  /-- CTRL.NOP: CTRL write with v[1:0] = 00, v[31:2] = hi (R243). -/
  | ctrlNop (hi : BitVec 30)
  /-- WR.VERSION: 32-bit write to 0x0008 (R244). -/
  | wrVersion (v : Word)
  /-- WR.IN_LEN: 32-bit write to 0x000C (R244). -/
  | wrInLen (v : Word)
  /-- WR.INT_EN: 32-bit write to 0x0020 (R244). -/
  | wrIntEn (v : Word)
  /-- WR.REG.IGNORED: 32-bit write to a read-only or reserved register (R244). -/
  | wrRegIgnored (r : BitVec 4) (v : Word)
  /-- RD.REG: 32-bit read of register r, at address 4·r (R245). -/
  | rdReg (r : BitVec 4)
  /-- WR.IN: write to byte j of the IN window (R246). -/
  | wrIn (n : BusWidth) (j : BitVec 13) (v : Word)
  /-- RD.IN: read of byte j of the IN window (R247). -/
  | rdIn (n : BusWidth) (j : BitVec 13)
  /-- RD.OUT: read of byte j of the OUT window (R248). -/
  | rdOut (n : BusWidth) (j : BitVec 15)
  /-- WR.OUT: write to byte j of the OUT window (R249). -/
  | wrOut (n : BusWidth) (j : BitVec 15) (v : Word)
  /-- BUSERR.MISALIGNED.A1: 32-bit access with a[1:0] = 1 (R250). -/
  | busErrMisalignedA1 (acc : HostAccess)
  /-- BUSERR.MISALIGNED.A2: 32-bit access with a[1:0] = 2 (R250). -/
  | busErrMisalignedA2 (acc : HostAccess)
  /-- BUSERR.MISALIGNED.A3: 32-bit access with a[1:0] = 3 (R250). -/
  | busErrMisalignedA3 (acc : HostAccess)
  /-- BUSERR.REG8: 8-bit access to the register window (R250). -/
  | busErrReg8 (acc : HostAccess)
  /-- BUSERR.UNMAPPED.0040: an access to 0x0040..0x007F (R250). -/
  | busErrUnmapped0040 (acc : HostAccess)
  /-- BUSERR.UNMAPPED.0080: an access to 0x0080..0x00FF (R250). -/
  | busErrUnmapped0080 (acc : HostAccess)
  /-- BUSERR.UNMAPPED.0100: an access to 0x0100..0x01FF (R250). -/
  | busErrUnmapped0100 (acc : HostAccess)
  /-- BUSERR.UNMAPPED.0200: an access to 0x0200..0x03FF (R250). -/
  | busErrUnmapped0200 (acc : HostAccess)
  /-- BUSERR.UNMAPPED.0400: an access to 0x0400..0x07FF (R250). -/
  | busErrUnmapped0400 (acc : HostAccess)
  /-- BUSERR.UNMAPPED.0800: an access to 0x0800..0x0FFF (R250). -/
  | busErrUnmapped0800 (acc : HostAccess)
  /-- BUSERR.UNMAPPED.1000: an access to 0x1000..0x1FFF (R250). -/
  | busErrUnmapped1000 (acc : HostAccess)
  /-- BUSERR.UNMAPPED.4000: an access to 0x4000..0x7FFF (R250). -/
  | busErrUnmapped4000 (acc : HostAccess)
deriving DecidableEq, Repr

end Sys2Proof
end

