-- ==== Sys2Proof/WellFormed.lean ====
section
/-! DEFINITION. Which terms of Instr stand for an element or an access. Stream operands have exactly their field's width,
so only host accesses need a check. -/

namespace Sys2Proof

/-- `a` is at a row of the opcode table with this mask and match. -/
def addrHits (mask hit a : Half) : Bool := a &&& mask == hit

/-- A 32-bit access that is not 4-byte aligned (20_memory.md R65). -/
def HostAccess.misaligned (acc : HostAccess) : Bool :=
  acc.busWidth == .w32 && acc.addr &&& 3#16 != 0#16

/-- A 32-bit access whose address has the low bits `k` (rows BUSERR.MISALIGNED). -/
def HostAccess.misalignedBy (k : Half) (acc : HostAccess) : Bool :=
  acc.busWidth == .w32 && addrHits 3#16 k acc.addr

/-- An 8-bit access to the register window (20_memory.md R71). -/
def HostAccess.register8 (acc : HostAccess) : Bool := acc.busWidth == .w8 && addrHits 0xFFC0#16 0#16 acc.addr

/-- An access at an unmapped row: no misaligned access takes it (30_encoding.md R107). -/
def HostAccess.unmappedAt (mask hit : Half) (acc : HostAccess) : Bool :=
  !acc.misaligned && addrHits mask hit acc.addr

/-- The alignment of a window access: 32-bit accesses are 4-byte aligned (20_memory.md R65). The windows begin at
multiples of 4, so the index in the window is aligned exactly when the address is. -/
def windowAligned (n : BusWidth) (j : Nat) : Bool := n == .w8 || j % 4 == 0

/-- The registers a write ignores: all but CTRL, VERSION, IN_LEN and INT_EN (46_host_commands.md R244). -/
def ignoredRegister (r : BitVec 4) : Bool := !(r == 0#4 || r == 2#4 || r == 3#4 || r == 8#4)

/-- Well-formed instructions. -/
def Instr.wf : Instr → Bool
  | .term => true
  | .num => true
  | .alnum => true
  | .byte => true
  | .unsup0011 => true
  | .unsup0101 => true
  | .unsup0110 => true
  | .unsup0111 => true
  | .unsup1000 => true
  | .unsup1001 => true
  | .unsup1010 => true
  | .unsup1011 => true
  | .unsup1100 => true
  | .unsup1101 => true
  | .unsup1110 => true
  | .unsup1111 => true
  | .eos => true
  | .lenNumB1 _ => true
  | .lenNumB2 _ => true
  | .lenNumB3 _ => true
  | .lenAlnumB1 _ => true
  | .lenAlnumB2 _ => true
  | .lenAlnumB3 _ => true
  | .lenByteB1 _ => true
  | .lenByteB2 _ => true
  | .lenByteB3 _ => true
  | .lenBadVersion => true
  | .n3 _ => true
  | .n2 _ => true
  | .n1 _ => true
  | .a2 _ => true
  | .a1 _ => true
  | .b8 _ => true
  | .start _ => true
  | .clear _ _ => true
  | .ctrlNop _ => true
  | .wrVersion _ => true
  | .wrInLen _ => true
  | .wrIntEn _ => true
  | .wrRegIgnored r _ => ignoredRegister r
  | .rdReg _ => true
  | .wrIn n j _ => windowAligned n j.toNat
  | .rdIn n j => windowAligned n j.toNat
  | .rdOut n j => windowAligned n j.toNat
  | .wrOut n j _ => windowAligned n j.toNat
  | .busErrMisalignedA1 acc => acc.misalignedBy 1#16
  | .busErrMisalignedA2 acc => acc.misalignedBy 2#16
  | .busErrMisalignedA3 acc => acc.misalignedBy 3#16
  | .busErrReg8 acc => acc.register8
  | .busErrUnmapped0040 acc => acc.unmappedAt 0xFFC0#16 0x0040#16
  | .busErrUnmapped0080 acc => acc.unmappedAt 0xFF80#16 0x0080#16
  | .busErrUnmapped0100 acc => acc.unmappedAt 0xFF00#16 0x0100#16
  | .busErrUnmapped0200 acc => acc.unmappedAt 0xFE00#16 0x0200#16
  | .busErrUnmapped0400 acc => acc.unmappedAt 0xFC00#16 0x0400#16
  | .busErrUnmapped0800 acc => acc.unmappedAt 0xF800#16 0x0800#16
  | .busErrUnmapped1000 acc => acc.unmappedAt 0xF000#16 0x1000#16
  | .busErrUnmapped4000 acc => acc.unmappedAt 0xC000#16 0x4000#16

end Sys2Proof
end

