-- ==== Sys2Proof/Decode.lean ====
section
/-! DEFINITION. Decoding and encoding: the stream elements (30_encoding.md) and the host accesses (30_encoding.md R107),
the tables they use, and the words of spec/opcode_table.json. -/

namespace Sys2Proof

/-! ## Bits and bytes -/

/-- The value of a bit string in stream order, first bit most significant (20_memory.md R63, 30_encoding.md R100). -/
def bitsVal (bits : List Bool) : Nat := bits.foldl (fun acc b => 2 * acc + b.toNat) 0

/-- The `n` low bits of `v` in stream order. -/
def toBits : Nat → Nat → List Bool
  | 0, _ => []
  | n + 1, v => v.testBit n :: toBits n v

/-- The bits of a byte in stream order: bit 7 first (20_memory.md R63). -/
def byteBits (b : Byte) : List Bool := toBits 8 b.toNat

/-- The bits of a byte buffer in stream order. -/
def bytesBits : List Byte → List Bool
  | [] => []
  | b :: bs => byteBits b ++ bytesBits bs

/-- A bit string cut into bytes, first bit as bit 7 of byte 0, the last byte filled with zeros (30_encoding.md R104, R105).
`fuel` bounds the number of bytes. -/
def packBytes : Nat → List Bool → List Byte
  | 0, _ => []
  | _ + 1, [] => []
  | fuel + 1, b :: bs =>
    BitVec.ofNat 8 (bitsVal (((b :: bs) ++ List.replicate 7 false).take 8)) :: packBytes fuel ((b :: bs).drop 8)

/-- The field of the next `n` bits, or nothing where fewer are left (40_bit_cursor.md R122). -/
def takeField (n : Nat) (bits : List Bool) : Option Nat :=
  if bits.length < n then none else some (bitsVal (bits.take n))

/-- A field as the operand of an instruction. Where too few bits are left the instruction's meaning raises
InsufficientBits whatever its operand is; the decoder then puts 0 there. DESIGN CHOICE, log 12: safe, nothing reads it. -/
def operand (n : Nat) (bits : List Bool) : BitVec n :=
  match takeField n bits with
  | none => 0#n
  | some v => BitVec.ofNat n v

/-! ## The tables of versions and widths -/

/-- Band(v) (30_encoding.md R94). -/
def band (v : BitVec 8) : Option Band :=
  if 1 ≤ v.toNat ∧ v.toNat ≤ 9 then some .b1
  else if 10 ≤ v.toNat ∧ v.toNat ≤ 26 then some .b2
  else if 27 ≤ v.toNat ∧ v.toNat ≤ 40 then some .b3
  else none

/-- The WIDTH ROM (30_encoding.md R95, 10_state.md R41). MODE value 3 has no row. -/
def width : Mode → Band → Option Nat
  | .num, .b1 => some 10
  | .num, .b2 => some 12
  | .num, .b3 => some 14
  | .alnum, .b1 => some 9
  | .alnum, .b2 => some 11
  | .alnum, .b3 => some 13
  | .byte, .b1 => some 8
  | .byte, .b2 => some 16
  | .byte, .b3 => some 16
  | .mode3, _ => none

/-! ## Decoding a stream element -/

/-- What selects the row of a stream element besides its bits (30_encoding.md R106, R107). -/
structure Ctx where
  phase   : Phase
  mode    : Mode
  rem     : Half
  version : BitVec 8
deriving DecidableEq, Repr

/-- Why no row fits: PHASE 3 or MODE 3 (93 U14), or a body phase with nothing left to read (10_state.md R25). -/
inductive Reject where
  | phase3
  | mode3
  | emptyBody
deriving DecidableEq, Repr

/-- The tag rows (30_encoding.md R92, R101). -/
def decodeTag (t : BitVec 4) : Instr :=
  if t = 0b0000#4 then .term
  else if t = 0b0001#4 then .num
  else if t = 0b0010#4 then .alnum
  else if t = 0b0011#4 then .unsup0011
  else if t = 0b0100#4 then .byte
  else if t = 0b0101#4 then .unsup0101
  else if t = 0b0110#4 then .unsup0110
  else if t = 0b0111#4 then .unsup0111
  else if t = 0b1000#4 then .unsup1000
  else if t = 0b1001#4 then .unsup1001
  else if t = 0b1010#4 then .unsup1010
  else if t = 0b1011#4 then .unsup1011
  else if t = 0b1100#4 then .unsup1100
  else if t = 0b1101#4 then .unsup1101
  else if t = 0b1110#4 then .unsup1110
  else .unsup1111

/-- The LEN rows (41_dispatcher.md R148): the version is tested before anything is read. -/
def decodeLen (c : Ctx) (bits : List Bool) : Except Reject Instr :=
  match band c.version with
  | none => .ok .lenBadVersion
  | some b =>
    match c.mode, b with
    | .num, .b1 => .ok (.lenNumB1 (operand 10 bits))
    | .num, .b2 => .ok (.lenNumB2 (operand 12 bits))
    | .num, .b3 => .ok (.lenNumB3 (operand 14 bits))
    | .alnum, .b1 => .ok (.lenAlnumB1 (operand 9 bits))
    | .alnum, .b2 => .ok (.lenAlnumB2 (operand 11 bits))
    | .alnum, .b3 => .ok (.lenAlnumB3 (operand 13 bits))
    | .byte, .b1 => .ok (.lenByteB1 (operand 8 bits))
    | .byte, .b2 => .ok (.lenByteB2 (operand 16 bits))
    | .byte, .b3 => .ok (.lenByteB3 (operand 16 bits))
    | .mode3, _ => .error .mode3

/-- The group rows, selected by MODE and REM (30_encoding.md R106). -/
def decodeGroup (c : Ctx) (bits : List Bool) : Except Reject Instr :=
  if c.rem = 0#16 then .error .emptyBody
  else
    match c.mode with
    | .num =>
      if 3 ≤ c.rem.toNat then .ok (.n3 (operand 10 bits))
      else if c.rem = 2#16 then .ok (.n2 (operand 7 bits))
      else .ok (.n1 (operand 4 bits))
    | .alnum => if 2 ≤ c.rem.toNat then .ok (.a2 (operand 11 bits)) else .ok (.a1 (operand 6 bits))
    | .byte => .ok (.b8 (operand 8 bits))
    | .mode3 => .error .mode3

/-- Decodes the element at the front of `bits`, the stream bits that are left (all of them, or at least 16). -/
def decodeStream (c : Ctx) (bits : List Bool) : Except Reject Instr :=
  match c.phase with
  | .dispatch =>
    match takeField 4 bits with
    | none => .ok .eos
    | some t => .ok (decodeTag (BitVec.ofNat 4 t))
  | .segLen => decodeLen c bits
  | .segBody => decodeGroup c bits
  | .phase3 => .error .phase3

/-! ## Decoding a host access -/

/-- A CTRL write, by its two low bits (46_host_commands.md R241 to R243). -/
def decodeCtrl (v : Word) : Instr :=
  if v.getLsbD 1 then .clear (v.extractLsb' 0 1) (v.extractLsb' 2 30)
  else if v.getLsbD 0 then .start (v.extractLsb' 2 30)
  else .ctrlNop (v.extractLsb' 2 30)

/-- A 32-bit aligned write to register `r` (46_host_commands.md R244). -/
def decodeRegWrite (r : BitVec 4) (v : Word) : Instr :=
  if r = 0#4 then decodeCtrl v
  else if r = 2#4 then .wrVersion v
  else if r = 3#4 then .wrInLen v
  else if r = 8#4 then .wrIntEn v
  else .wrRegIgnored r v

/-- A 32-bit aligned access to the register window, by its word index a[5:2] (46_host_commands.md R244, R245). -/
def decodeRegister (acc : HostAccess) : Instr :=
  match acc with
  | .read _ a => .rdReg (a.extractLsb' 2 4)
  | .write _ a v => decodeRegWrite (a.extractLsb' 2 4) v

/-- An access to the IN window (46_host_commands.md R246, R247). -/
def decodeInWindow (acc : HostAccess) : Instr :=
  match acc with
  | .read n a => .rdIn n (a.extractLsb' 0 13)
  | .write n a v => .wrIn n (a.extractLsb' 0 13) v

/-- An access to the OUT window (46_host_commands.md R248, R249). -/
def decodeOutWindow (acc : HostAccess) : Instr :=
  match acc with
  | .read n a => .rdOut n (a.extractLsb' 0 15)
  | .write n a v => .wrOut n (a.extractLsb' 0 15) v

/-- The BUSERR rows of the opcode table, in their order of precedence: misalignment comes first, then an 8-bit register
access, then the unmapped ranges (30_encoding.md R107, 20_memory.md R70, R72, R73). -/
def busErrRows : List ((HostAccess → Bool) × (HostAccess → Instr)) :=
  [(HostAccess.misalignedBy 1#16, .busErrMisalignedA1),
   (HostAccess.misalignedBy 2#16, .busErrMisalignedA2),
   (HostAccess.misalignedBy 3#16, .busErrMisalignedA3),
   (HostAccess.register8, .busErrReg8),
   (HostAccess.unmappedAt 0xFFC0#16 0x0040#16, .busErrUnmapped0040),
   (HostAccess.unmappedAt 0xFF80#16 0x0080#16, .busErrUnmapped0080),
   (HostAccess.unmappedAt 0xFF00#16 0x0100#16, .busErrUnmapped0100),
   (HostAccess.unmappedAt 0xFE00#16 0x0200#16, .busErrUnmapped0200),
   (HostAccess.unmappedAt 0xFC00#16 0x0400#16, .busErrUnmapped0400),
   (HostAccess.unmappedAt 0xF800#16 0x0800#16, .busErrUnmapped0800),
   (HostAccess.unmappedAt 0xF000#16 0x1000#16, .busErrUnmapped1000),
   (HostAccess.unmappedAt 0xC000#16 0x4000#16, .busErrUnmapped4000)]

/-- Decodes a host access: every access has a row. A BUSERR row takes precedence over every window row (30_encoding.md R107). -/
def decodeAccess (acc : HostAccess) : Instr :=
  match busErrRows.find? (fun row => row.1 acc) with
  | some row => row.2 acc
  | none =>
    if addrHits 0xFFC0#16 0#16 acc.addr then decodeRegister acc
    else if addrHits 0xE000#16 0x2000#16 acc.addr then decodeInWindow acc
    else decodeOutWindow acc

/-! ## The whole decoder and the encoder -/

/-- An instruction as the hardware meets it: bits at the front of the stream, or a bus access. -/
inductive Encoded where
  | stream (bits : List Bool)
  | bus (acc : HostAccess)
deriving DecidableEq, Repr

/-- Decodes either form, total, rejecting by name. -/
def decode (c : Ctx) : Encoded → Except Reject Instr
  | .stream bits => decodeStream c bits
  | .bus acc => .ok (decodeAccess acc)

/-- Decodes the element at the front of a byte buffer. -/
def decodeBytes (c : Ctx) (bytes : List Byte) : Except Reject Instr := decodeStream c (bytesBits bytes)

/-- The address of register `r`, at offset 4·r (10_state.md R28). -/
def regAddr (r : BitVec 4) : Half := 0#10 ++ r ++ 0#2

/-- The address of byte `j` of the IN window, 0x2000 + j (20_memory.md R70). -/
def inAddr (j : BitVec 13) : Half := 1#3 ++ j

/-- The address of byte `j` of the OUT window, 0x8000 + j (20_memory.md R70). -/
def outAddr (j : BitVec 15) : Half := 1#1 ++ j

/-- The words of an instruction (30_encoding.md R92 to R98, R107). -/
def encode : Instr → Encoded
  | .term => .stream (toBits 4 0b0000)
  | .num => .stream (toBits 4 0b0001)
  | .alnum => .stream (toBits 4 0b0010)
  | .byte => .stream (toBits 4 0b0100)
  | .unsup0011 => .stream (toBits 4 0b0011)
  | .unsup0101 => .stream (toBits 4 0b0101)
  | .unsup0110 => .stream (toBits 4 0b0110)
  | .unsup0111 => .stream (toBits 4 0b0111)
  | .unsup1000 => .stream (toBits 4 0b1000)
  | .unsup1001 => .stream (toBits 4 0b1001)
  | .unsup1010 => .stream (toBits 4 0b1010)
  | .unsup1011 => .stream (toBits 4 0b1011)
  | .unsup1100 => .stream (toBits 4 0b1100)
  | .unsup1101 => .stream (toBits 4 0b1101)
  | .unsup1110 => .stream (toBits 4 0b1110)
  | .unsup1111 => .stream (toBits 4 0b1111)
  | .eos => .stream []
  | .lenNumB1 l => .stream (toBits 10 l.toNat)
  | .lenNumB2 l => .stream (toBits 12 l.toNat)
  | .lenNumB3 l => .stream (toBits 14 l.toNat)
  | .lenAlnumB1 l => .stream (toBits 9 l.toNat)
  | .lenAlnumB2 l => .stream (toBits 11 l.toNat)
  | .lenAlnumB3 l => .stream (toBits 13 l.toNat)
  | .lenByteB1 l => .stream (toBits 8 l.toNat)
  | .lenByteB2 l => .stream (toBits 16 l.toNat)
  | .lenByteB3 l => .stream (toBits 16 l.toNat)
  | .lenBadVersion => .stream []
  | .n3 v => .stream (toBits 10 v.toNat)
  | .n2 v => .stream (toBits 7 v.toNat)
  | .n1 v => .stream (toBits 4 v.toNat)
  | .a2 v => .stream (toBits 11 v.toNat)
  | .a1 v => .stream (toBits 6 v.toNat)
  | .b8 v => .stream (toBits 8 v.toNat)
  | .start hi => .bus (.write .w32 (regAddr 0#4) (hi ++ 0b01#2))
  | .clear lo hi => .bus (.write .w32 (regAddr 0#4) (hi ++ 0b1#1 ++ lo))
  | .ctrlNop hi => .bus (.write .w32 (regAddr 0#4) (hi ++ 0b00#2))
  | .wrVersion v => .bus (.write .w32 (regAddr 2#4) v)
  | .wrInLen v => .bus (.write .w32 (regAddr 3#4) v)
  | .wrIntEn v => .bus (.write .w32 (regAddr 8#4) v)
  | .wrRegIgnored r v => .bus (.write .w32 (regAddr r) v)
  | .rdReg r => .bus (.read .w32 (regAddr r))
  | .wrIn n j v => .bus (.write n (inAddr j) v)
  | .rdIn n j => .bus (.read n (inAddr j))
  | .rdOut n j => .bus (.read n (outAddr j))
  | .wrOut n j v => .bus (.write n (outAddr j) v)
  | .busErrMisalignedA1 acc => .bus acc
  | .busErrMisalignedA2 acc => .bus acc
  | .busErrMisalignedA3 acc => .bus acc
  | .busErrReg8 acc => .bus acc
  | .busErrUnmapped0040 acc => .bus acc
  | .busErrUnmapped0080 acc => .bus acc
  | .busErrUnmapped0100 acc => .bus acc
  | .busErrUnmapped0200 acc => .bus acc
  | .busErrUnmapped0400 acc => .bus acc
  | .busErrUnmapped0800 acc => .bus acc
  | .busErrUnmapped1000 acc => .bus acc
  | .busErrUnmapped4000 acc => .bus acc

/-- The rows' `format` column: in which context a stream row is the one selected (30_encoding.md R106, R107). Host rows
need no context. -/
def Ctx.selects (c : Ctx) : Instr → Bool
  | .term => c.phase == .dispatch
  | .num => c.phase == .dispatch
  | .alnum => c.phase == .dispatch
  | .byte => c.phase == .dispatch
  | .unsup0011 => c.phase == .dispatch
  | .unsup0101 => c.phase == .dispatch
  | .unsup0110 => c.phase == .dispatch
  | .unsup0111 => c.phase == .dispatch
  | .unsup1000 => c.phase == .dispatch
  | .unsup1001 => c.phase == .dispatch
  | .unsup1010 => c.phase == .dispatch
  | .unsup1011 => c.phase == .dispatch
  | .unsup1100 => c.phase == .dispatch
  | .unsup1101 => c.phase == .dispatch
  | .unsup1110 => c.phase == .dispatch
  | .unsup1111 => c.phase == .dispatch
  | .eos => c.phase == .dispatch
  | .lenNumB1 _ => c.phase == .segLen && c.mode == .num && band c.version == some .b1
  | .lenNumB2 _ => c.phase == .segLen && c.mode == .num && band c.version == some .b2
  | .lenNumB3 _ => c.phase == .segLen && c.mode == .num && band c.version == some .b3
  | .lenAlnumB1 _ => c.phase == .segLen && c.mode == .alnum && band c.version == some .b1
  | .lenAlnumB2 _ => c.phase == .segLen && c.mode == .alnum && band c.version == some .b2
  | .lenAlnumB3 _ => c.phase == .segLen && c.mode == .alnum && band c.version == some .b3
  | .lenByteB1 _ => c.phase == .segLen && c.mode == .byte && band c.version == some .b1
  | .lenByteB2 _ => c.phase == .segLen && c.mode == .byte && band c.version == some .b2
  | .lenByteB3 _ => c.phase == .segLen && c.mode == .byte && band c.version == some .b3
  | .lenBadVersion => c.phase == .segLen && band c.version == none
  | .n3 _ => c.phase == .segBody && c.mode == .num && decide (3 ≤ c.rem.toNat)
  | .n2 _ => c.phase == .segBody && c.mode == .num && c.rem == 2#16
  | .n1 _ => c.phase == .segBody && c.mode == .num && c.rem == 1#16
  | .a2 _ => c.phase == .segBody && c.mode == .alnum && decide (2 ≤ c.rem.toNat)
  | .a1 _ => c.phase == .segBody && c.mode == .alnum && c.rem == 1#16
  | .b8 _ => c.phase == .segBody && c.mode == .byte && decide (1 ≤ c.rem.toNat)
  | .start _ => true
  | .clear _ _ => true
  | .ctrlNop _ => true
  | .wrVersion _ => true
  | .wrInLen _ => true
  | .wrIntEn _ => true
  | .wrRegIgnored _ _ => true
  | .rdReg _ => true
  | .wrIn _ _ _ => true
  | .rdIn _ _ => true
  | .rdOut _ _ => true
  | .wrOut _ _ _ => true
  | .busErrMisalignedA1 _ => true
  | .busErrMisalignedA2 _ => true
  | .busErrMisalignedA3 _ => true
  | .busErrReg8 _ => true
  | .busErrUnmapped0040 _ => true
  | .busErrUnmapped0080 _ => true
  | .busErrUnmapped0100 _ => true
  | .busErrUnmapped0200 _ => true
  | .busErrUnmapped0400 _ => true
  | .busErrUnmapped0800 _ => true
  | .busErrUnmapped1000 _ => true
  | .busErrUnmapped4000 _ => true

/-! ## The words of the opcode table -/

/-- The context in which the rows of one width are read from a table word, and the bits. A row's word says neither PHASE,
MODE, REM nor VERSION: the first row of the table of that width is meant. DESIGN CHOICE, log 14. -/
def tableStream (nbits w : Nat) : Option (Ctx × List Bool) :=
  let tag : Ctx := ⟨.dispatch, .num, 0#16, 1#8⟩
  if nbits = 0 then some (tag, [])
  else if nbits ≤ 4 ∨ (nbits = 8 ∧ w < 16) then some (tag, toBits 4 w)
  else if nbits = 6 then some (⟨.segBody, .alnum, 1#16, 1#8⟩, toBits 6 w)
  else if nbits = 7 then some (⟨.segBody, .num, 2#16, 1#8⟩, toBits 7 w)
  else if nbits = 8 then some (⟨.segLen, .byte, 0#16, 1#8⟩, toBits 8 w)
  else if nbits = 9 then some (⟨.segLen, .alnum, 0#16, 1#8⟩, toBits 9 w)
  else if nbits = 10 then some (⟨.segLen, .num, 0#16, 1#8⟩, toBits 10 w)
  else if nbits = 11 then some (⟨.segLen, .alnum, 0#16, 10#8⟩, toBits 11 w)
  else if nbits = 12 then some (⟨.segLen, .num, 0#16, 10#8⟩, toBits 12 w)
  else if nbits = 13 then some (⟨.segLen, .alnum, 0#16, 27#8⟩, toBits 13 w)
  else if nbits = 14 then some (⟨.segLen, .num, 0#16, 27#8⟩, toBits 14 w)
  else none

/-- The access a 16-bit table word, an address, stands for: the first row of the table that the address fits, with write
data 0. DESIGN CHOICE, log 14. -/
def tableAccess (a : Half) : HostAccess :=
  if a &&& 3#16 ≠ 0#16 then
    if addrHits 0xE000#16 0x2000#16 a then .write .w8 a 0#32
    else if addrHits 0x8000#16 0x8000#16 a then .read .w8 a
    else .read .w32 a
  else if a = 0#16 ∨ addrHits 0x8000#16 0x8000#16 a then .read .w32 a
  else .write .w32 a 0#32

/-- A table word laid out as the hardware meets it: up to 14 bits a stream element, 16 bits an address, 32 bits CTRL
write data (30_encoding.md R107). -/
def tableEncoded (nbits w : Nat) : Option (Ctx × Encoded) :=
  let bus : Ctx := ⟨.dispatch, .num, 0#16, 0#8⟩
  if nbits = 32 then some (bus, .bus (.write .w32 0#16 (BitVec.ofNat 32 w)))
  else if nbits = 16 then some (bus, .bus (tableAccess (BitVec.ofNat 16 w)))
  else (tableStream nbits w).map (fun cb => (cb.1, .stream cb.2))

/-- The instruction the decoder reads from a word numbered as spec/opcode_table.json numbers it. -/
def decodeTableWord (nbits w : Nat) : Option Instr :=
  match tableEncoded nbits w with
  | none => none
  | some (c, e) => (decode c e).toOption

end Sys2Proof
end

