-- ==== Sys2Proof/Machine/State.lean ====
section
/-! DEFINITION. The state of QRPD (10_state.md), its faults and refusals, and the state after reset. -/

namespace Sys2Proof.Machine

/-- STATE, 2 bits (10_state.md R21). -/
inductive CoreState where
  | idle
  | busy
  | doneOk
  | doneErr
deriving DecidableEq, Repr

/-- ERR_CODE: NONE and the six errors (60_exceptions.md R270). The codes 7 to 15 are never written and have no constructor
(93 U13). DESIGN CHOICE of form, log 11: safe. -/
inductive ErrCode where
  | none
  | unsupportedVersion
  | insufficientBits
  | unsupportedMode
  | invalidAlphanumericValue
  | outputOverflow
  | invalidNumericValue
deriving DecidableEq, Repr

/-- A byte buffer: the bytes written since the last reset, by address, addresses strictly rising. -/
abbrev Memory := List Host.Cell

/-- What a host access returns (20_memory.md R72, R73): data and whether it is BUSERR, or for a write only the latter. -/
inductive Response where
  | read (data : Word) (buserr : Bool)
  | write (buserr : Bool)
deriving DecidableEq, Repr

/-- An event of the interleaving: a core step, a host access (20_memory.md R74), or a reset (70_reset_and_hazards.md R300). -/
inductive Event where
  | core
  | bus (acc : HostAccess)
  | rst
deriving DecidableEq, Repr

/-- The state. The last six fields are the model's own (logs 1, 7, 8 and 10). -/
structure State where
  /-- The parameters of the instance (00_scope.md R8), read through the capability registers (10_state.md R31). -/
  cfg       : Params
  /-- STATE (R21). -/
  st        : CoreState
  /-- OFFSET (R22). -/
  offset    : Half
  /-- PHASE (R23). -/
  phase     : Phase
  /-- MODE (R24). -/
  mode      : Mode
  /-- REM (R25). -/
  rem       : Half
  /-- OUT_PTR (R26). -/
  outPtr    : Half
  /-- ERR_CODE (R35). -/
  errCode   : ErrCode
  /-- ERR_INFO (R36). -/
  errInfo   : Half
  /-- VERSION (R32). -/
  version   : BitVec 8
  /-- IN_LEN (R33). -/
  inLen     : Half
  /-- IE (R38). -/
  ie        : Bool
  /-- The bytes of IN_MEM that have been written since the last reset (20_memory.md R61, 70_reset_and_hazards.md R309). -/
  inMem     : Memory
  /-- The bytes of OUT_MEM that have been written since the last reset (20_memory.md R62, 10_state.md R44). -/
  outMem    : Memory
  /-- The offsets the current decode has reached, newest first (10_state.md R37). -/
  reached   : List Half
  /-- The previous reading of BIT_OFFSET in the current decode (70_reset_and_hazards.md R312). -/
  readFloor : Half
  /-- How many draws of BIT_OFFSET have been made. -/
  draws     : Nat
  /-- The resets there have been, newest first: what stood written in IN_MEM and in OUT_MEM when each came. -/
  past      : List (Memory × Memory)
  /-- What the last host access returned, if there was one. -/
  resp      : Option Response
  /-- The coming events, next first. -/
  pending   : List Event
deriving DecidableEq, Repr

/-- Stuck states: the core is BUSY and no arm of CoreStep fits (93 U14). All are raised by `step`, all are safe (the model
stops), and none is ever reached (log 9). -/
inductive Fault where
  /-- PHASE holds 3. Raised by `step`; safe. -/
  | stuckPhase
  /-- MODE holds 3 where a phase reads it. Raised by `step`; safe. -/
  | stuckMode
  /-- PHASE is SEG_BODY and REM is 0 (10_state.md R25). Raised by `step`; safe. -/
  | stuckBody
deriving DecidableEq, Repr

/-- What the model gives no meaning. -/
inductive Refusal where
  /-- An instruction without a meaning yet. Raised by `exec`; safe. -/
  | notModelled (mnemonic : String)
  /-- The parameters are outside their legal ranges (93 U17). Raised by `step`; safe (log 4). -/
  | illegalParameters
deriving DecidableEq, Repr

/-- The state after reset of an instance with parameters `cfg` (10_state.md R44). Of the buffers nothing has been
written since. -/
def State.resetOf (cfg : Params) : State where
  cfg := cfg
  st := .idle
  offset := 0#16
  phase := .dispatch
  mode := .num
  rem := 0#16
  outPtr := 0#16
  errCode := .none
  errInfo := 0#16
  version := 0#8
  inLen := 0#16
  ie := false
  inMem := []
  outMem := []
  reached := [0#16]
  readFloor := 0#16
  draws := 0
  past := []
  resp := none
  pending := []

/-- The state after reset of the reference instance (10_state.md R44, 00_scope.md R8). -/
def State.reset : State := State.resetOf Params.default

end Sys2Proof.Machine
end

