-- ==== Sys2Proof/Machine/Flags.lean ====
section
/-! DEFINITION. The only status bits QRPD has (10_state.md R43): STATE, the interrupt line, and the code numbers. -/

namespace Sys2Proof.Machine

/-- The value of STATE (10_state.md R21). -/
def CoreState.bits : CoreState → BitVec 2
  | .idle => 0#2
  | .busy => 1#2
  | .doneOk => 2#2
  | .doneErr => 3#2

/-- The value of ERR_CODE (60_exceptions.md R270). -/
def ErrCode.bits : ErrCode → BitVec 4
  | .none => 0#4
  | .unsupportedVersion => 1#4
  | .insufficientBits => 2#4
  | .unsupportedMode => 3#4
  | .invalidAlphanumericValue => 4#4
  | .outputOverflow => 5#4
  | .invalidNumericValue => 6#4

/-- The interrupt line irq, level-sensitive, active high (60_exceptions.md R283). -/
def State.irq (s : State) : Bool := s.ie && (s.st == .doneOk || s.st == .doneErr)

/-- STATUS: STATE in bits 1:0 and IRQ in bit 2 (10_state.md R30). -/
def State.statusWord (s : State) : Word := (0#29 ++ BitVec.ofBool s.irq) ++ s.st.bits

/-- CONFIG: NUMOVR in bit 0 (10_state.md R31). -/
def State.configWord (s : State) : Word :=
  match s.cfg.numOvr with
  | .wide => 0#32
  | .fault => 1#32

end Sys2Proof.Machine
end

