-- ==== Sys2Proof/Machine/Operands.lean ====
section
/-! DEFINITION. Operand forms: the bytes of digits and alphabet symbols, byte lanes of a host word, and the value a
register read returns. -/

namespace Sys2Proof.Machine

/-- The ALPHA ROM, 45 bytes (10_state.md R40). -/
def alphaTable : List Byte :=
  [0x30#8, 0x31#8, 0x32#8, 0x33#8, 0x34#8, 0x35#8, 0x36#8, 0x37#8, 0x38#8, 0x39#8,
   0x41#8, 0x42#8, 0x43#8, 0x44#8, 0x45#8, 0x46#8, 0x47#8, 0x48#8, 0x49#8, 0x4A#8, 0x4B#8, 0x4C#8, 0x4D#8,
   0x4E#8, 0x4F#8, 0x50#8, 0x51#8, 0x52#8, 0x53#8, 0x54#8, 0x55#8, 0x56#8, 0x57#8, 0x58#8, 0x59#8, 0x5A#8,
   0x20#8, 0x24#8, 0x25#8, 0x2A#8, 0x2B#8, 0x2D#8, 0x2E#8, 0x2F#8, 0x3A#8]

/-- ALPHA[i]. It is used only with `i ≤ 44` (43_alphanumeric.md R190); above, the table has no entry. -/
def alpha (i : Nat) : Byte := alphaTable.getD i 0#8

/-- The byte of a decimal digit (42_numeric.md R175). -/
def digitByte (d : Nat) : Byte := BitVec.ofNat 8 (0x30 + d)

/-- The `k` low decimal digits of `v`, most significant first (42_numeric.md R175). -/
def decimal : Nat → Nat → List Byte
  | 0, _ => []
  | k + 1, v => digitByte (v / 10 ^ k % 10) :: decimal k v

/-- DecDigits(v, k), with Overrange(v, k) under the parameter: the bytes, or none where InvalidNumericValue is raised
(42_numeric.md R175, R176). An over-range value has k + 1 digits. -/
def decDigits (ovr : Overrange) (v k : Nat) : Option (List Byte) :=
  if 10 ^ k ≤ v then
    match ovr with
    | .wide => some (decimal (k + 1) v)
    | .fault => none
  else some (decimal k v)

/-- ERR_INFO of InvalidNumericValue: (k << 12) | v (60_exceptions.md R275). -/
def numericInfo (v k : Nat) : Half := (BitVec.ofNat 16 k <<< 12) ||| BitVec.ofNat 16 v

/-- Byte lane `i` of a host word: v[8i+7 : 8i] (20_memory.md R64, 46_host_commands.md R246). -/
def lane (v : Word) (i : Nat) : Byte := v.extractLsb' (8 * i) 8

/-- Bytes packed little-endian into a host word (20_memory.md R64). -/
def packWord : List Byte → Word
  | [] => 0#32
  | b :: bs => b.setWidth 32 ||| (packWord bs <<< 8)

/-- RegRead of register `r`, with `bitOffset` what BIT_OFFSET returns (46_host_commands.md R245, 10_state.md R28 to R39). -/
def regRead (bitOffset : Half) (r : BitVec 4) (s : State) : Word :=
  if r = 1#4 then s.statusWord
  else if r = 2#4 then s.version.setWidth 32
  else if r = 3#4 then s.inLen.setWidth 32
  else if r = 4#4 then (if s.st = .doneOk then s.outPtr.setWidth 32 else 0#32)
  else if r = 5#4 then s.errCode.bits.setWidth 32
  else if r = 6#4 then s.errInfo.setWidth 32
  else if r = 7#4 then bitOffset.setWidth 32
  else if r = 8#4 then (BitVec.ofBool s.ie).setWidth 32
  else if r = 9#4 then (BitVec.ofNat 16 s.cfg.inCap).setWidth 32
  else if r = 10#4 then (BitVec.ofNat 16 s.cfg.outCap).setWidth 32
  else if r = 11#4 then s.configWord
  else 0#32

end Sys2Proof.Machine
end

