-- ==== Sys2Proof/Machine/Ops.lean ====
section
/-! DEFINITION. The named operations over memory and registers: the buffers, the Bit Cursor, the accumulator, raising an
error and ending a decode, the host commands, reset, and the fetch. -/

namespace Sys2Proof.Machine

/-! ## Byte buffers -/

/-- The byte written at `a`, if any. -/
def Memory.byteAt : Memory → Nat → Option Byte
  | [], _ => none
  | (k, b) :: m, a => if a = k then some b else Memory.byteAt m a

/-- Writes one byte, in the order of the addresses. -/
def Memory.put : Memory → Nat → Byte → Memory
  | [], a, v => [(a, v)]
  | (k, b) :: m, a, v =>
    if a < k then (a, v) :: (k, b) :: m
    else if a = k then (a, v) :: m
    else (k, b) :: Memory.put m a v

/-- Writes bytes at `a` upward. -/
def Memory.putAll : Memory → Nat → List Byte → Memory
  | m, _, [] => m
  | m, a, b :: bs => Memory.putAll (Memory.put m a b) (a + 1) bs

/-- Writes bytes at `a` upward, dropping those at or past `cap` (46_host_commands.md R246). -/
def Memory.putBelow (cap : Nat) : Memory → Nat → List Byte → Memory
  | m, _, [] => m
  | m, a, b :: bs => Memory.putBelow cap (if a < cap then Memory.put m a b else m) (a + 1) bs

/-- The canonical form: addresses strictly rising. An unlisted address holds no written byte, so no entry can equal it. -/
abbrev Memory.wf (m : Memory) : Prop := m.Pairwise (fun x y => x.1 < y.1)

/-- InByte(k): what byte `k` of IN_MEM reads as. One that nothing has written since the last reset is a free value
(70_reset_and_hazards.md R309, 93 U6; log 5). -/
def State.inByte (s : State) (k : Nat) : Byte := (Memory.byteAt s.inMem k).getD (Config.inMemDraw s.past k)

/-- OUT_MEM[k]. One that nothing has written since the last reset is a free value (10_state.md R44, 93 U7; log 6). -/
def State.outByte (s : State) (k : Nat) : Byte := (Memory.byteAt s.outMem k).getD (Config.outMemDraw s.past k)

/-- Byte `j` of the IN window (46_host_commands.md R247). -/
def State.inWindowByte (s : State) (j : Nat) : Byte := if j < s.cfg.inCap then s.inByte j else 0#8

/-- OutByte(j): byte `j` of the OUT window, gated (46_host_commands.md R248, 20_memory.md R62, R70). -/
def State.outWindowByte (s : State) (j : Nat) : Byte :=
  if s.st = .doneOk ∧ j < s.outPtr.toNat ∧ j < s.cfg.outCap then s.outByte j else 0#8

/-- The word a window read returns: `n` bytes from index `j`, little-endian (20_memory.md R64, R72). -/
def windowWord (byteOf : Nat → Byte) (n : BusWidth) (j : Nat) : Word :=
  packWord ((List.range n.bytes).map (fun i => byteOf (j + i)))

/-- The bytes a host write carries: v[8i+7 : 8i] for each lane (46_host_commands.md R246). -/
def writeLanes (n : BusWidth) (v : Word) : List Byte := (List.range n.bytes).map (lane v)

/-! ## The Bit Cursor -/

/-- `n` bits are left: OFFSET + n ≤ 8·IN_LEN (40_bit_cursor.md R122). -/
def State.fits (n : Nat) (s : State) : Bool := decide (s.offset.toNat + n ≤ 8 * s.inLen.toNat)

/-- Stream bit `k`: bit 7 − (k mod 8) of IN_MEM[k div 8] (20_memory.md R63). -/
def State.streamBit (s : State) (k : Nat) : Bool := (s.inByte (k / 8)).getLsbD (7 - k % 8)

/-- The next stream bits, at most 16 of them: the widest field (00_scope.md R10). -/
def State.nextBits (s : State) : List Bool :=
  (List.range (min 16 (8 * s.inLen.toNat - s.offset.toNat))).map (fun j => s.streamBit (s.offset.toNat + j))

/-- Moves OFFSET past a field that was read (40_bit_cursor.md R121), and notes the offset reached (log 8). -/
def State.advance (n : Nat) (s : State) : State :=
  { s with offset := s.offset + BitVec.ofNat 16 n, reached := (s.offset + BitVec.ofNat 16 n) :: s.reached }

/-- ReadBits(n) for 1 ≤ n ≤ 16 (40_bit_cursor.md R121). -/
def State.readBits (n : Nat) (s : State) : Option Half × State :=
  match takeField n s.nextBits with
  | none => (none, s)
  | some v => (some (BitVec.ofNat 16 v), s.advance n)

/-! ## The end of a decode -/

/-- raise E(info): taking an error (60_exceptions.md R276). -/
def State.raise (e : ErrCode) (info : Half) (s : State) : State :=
  { s with errCode := e, errInfo := info, st := .doneErr }

/-- finish_ok: the commit (45_accumulator.md R223). -/
def State.finishOk (s : State) : State := { s with st := .doneOk }

/-- START from a state other than BUSY (46_host_commands.md R241). The list of offsets reached begins anew (log 8). -/
def State.started (s : State) : State :=
  { s with offset := 0#16, outPtr := 0#16, rem := 0#16, phase := .dispatch, errCode := .none, errInfo := 0#16, st := .busy,
           reached := [0#16], readFloor := 0#16 }

/-- START: ignored while BUSY (46_host_commands.md R241, 70_reset_and_hazards.md R306). -/
def State.startCommand (s : State) : State := if s.st = .busy then s else s.started

/-- CLEAR: the way out of an error, and the abort of a decode (46_host_commands.md R242, 60_exceptions.md R282). -/
def State.clearCommand (s : State) : State :=
  { s with offset := 0#16, outPtr := 0#16, rem := 0#16, phase := .dispatch, errCode := .none, errInfo := 0#16, st := .idle,
           reached := [0#16], readFloor := 0#16 }

/-- rst asserted and released: every register at its reset value, and of the buffers nothing written since, so that every
byte is a free value (70_reset_and_hazards.md R300, R309, 10_state.md R44, 93 U6, U7). The free values are drawn from what
the buffers held, which is noted in `past`: they may keep it (10_state.md R42, 20_memory.md R61). The parameters, the
coming events and the draw counter are not the chip's to reset. DESIGN CHOICE, log 7: safe. -/
def State.rstOp (s : State) : State :=
  { State.resetOf s.cfg with draws := s.draws, past := (s.inMem, s.outMem) :: s.past, pending := s.pending }

/-! ## Parts of a core step -/

/-- A read of an `n`-bit field in a length or group step: InsufficientBits(n), with OFFSET unchanged, where too few bits are
left (60_exceptions.md R272), and otherwise `k` after OFFSET has moved. -/
def needBits (n : Nat) (k : State → State) (s : State) : State :=
  if s.fits n then k (s.advance n) else s.raise .insufficientBits (BitVec.ofNat 16 n)

/-- A segment tag is accepted (41_dispatcher.md R144 to R146). -/
def State.enterSegment (m : Mode) (s : State) : State := { s with mode := m, phase := .segLen }

/-- REM <- L, and the next phase (41_dispatcher.md R148). -/
def State.loadLength (l : Half) (s : State) : State :=
  { s with rem := l, phase := if l = 0#16 then .dispatch else .segBody }

/-- REM <- REM − k, and back to DISPATCH at 0 (41_dispatcher.md R151). -/
def State.consume (k : Half) (s : State) : State :=
  { s with rem := s.rem - k, phase := if s.rem - k = 0#16 then .dispatch else s.phase }

/-- REM <- 0; PHASE <- DISPATCH, the end of a segment (42_numeric.md R172, R173, 43_alphanumeric.md R193). -/
def State.endSegment (s : State) : State := { s with rem := 0#16, phase := .dispatch }

/-- The bytes of Append, once they are known to fit (45_accumulator.md R221). -/
def State.appended (bs : List Byte) (s : State) : State :=
  { s with outMem := Memory.putAll s.outMem s.outPtr.toNat bs, outPtr := s.outPtr + BitVec.ofNat 16 bs.length }

/-- Append(bs) and then the rest `k` of the step: OutputOverflow with nothing written where they do not fit
(45_accumulator.md R221). -/
def append (bs : List Byte) (k : State → State) (s : State) : State :=
  if s.cfg.outCap < s.outPtr.toNat + bs.length then s.raise .outputOverflow 0#16 else k (s.appended bs)

/-- A length field of `w` bits with value `l` (41_dispatcher.md R148). -/
def lengthField (w : Nat) (l : Half) (s : State) : State := needBits w (State.loadLength l) s

/-- A numeric group of `w` bits standing for `k` digits, with `done` the end of its step (42_numeric.md R171 to R176). -/
def numericGroup (w k v : Nat) (done : State → State) (s : State) : State :=
  needBits w
    (fun t =>
      match decDigits t.cfg.numOvr v k with
      | none => t.raise .invalidNumericValue (numericInfo v k)
      | some bs => append bs done t)
    s

/-! ## The host's side -/

/-- The response of an access. -/
def State.respond (r : Response) (s : State) : State := { s with resp := some r }

/-- BUSERR: nothing but the response (46_host_commands.md R250). -/
def State.busError (acc : HostAccess) (s : State) : State :=
  match acc with
  | .read _ _ => s.respond (.read 0#32 true)
  | .write _ _ _ => s.respond (.write true)

/-- What BIT_OFFSET may read while BUSY: the offsets reached in this decode that are not below the previous reading
(10_state.md R37, 70_reset_and_hazards.md R312). -/
def State.admitted (s : State) : List Half := s.reached.filter (fun o => decide (s.readFloor.toNat ≤ o.toNat))

/-- BIT_OFFSET: OFFSET itself, or a draw while BUSY (10_state.md R37; log 8). -/
def State.bitOffset (s : State) : Half :=
  if s.st = .busy then
    s.admitted.getD (Config.bitOffsetPick s.draws % s.admitted.length) s.offset
  else s.offset

/-- After a read of BIT_OFFSET: while BUSY the draw is used up and its value is the next reading's lower bound. -/
def State.bitOffsetRead (s : State) : State :=
  if s.st = .busy then { s with readFloor := s.bitOffset, draws := s.draws + 1 } else s

/-- A register read (46_host_commands.md R245). -/
def State.registerRead (r : BitVec 4) (s : State) : State :=
  (if r = 7#4 then s.bitOffsetRead else s).respond (.read (regRead s.bitOffset r s) false)

/-- A write of VERSION, dropped while BUSY (46_host_commands.md R244). -/
def State.setVersion (v : BitVec 8) (s : State) : State := if s.st = .busy then s else { s with version := v }

/-- IN_LEN stores min(w, IN_CAP) (10_state.md R33). -/
def clampLength (cap : Nat) (w : Half) : Half := BitVec.ofNat 16 (min w.toNat cap)

/-- A write of IN_LEN, clamped, dropped while BUSY (46_host_commands.md R244). -/
def State.setInLen (w : Half) (s : State) : State :=
  if s.st = .busy then s else { s with inLen := clampLength s.cfg.inCap w }

/-- A write of IE, in every state (10_state.md R38). -/
def State.setIe (b : Bool) (s : State) : State := { s with ie := b }

/-- InWindowWrite, dropped while BUSY (46_host_commands.md R246). -/
def State.inWindowWrite (n : BusWidth) (j : Nat) (v : Word) (s : State) : State :=
  if s.st = .busy then s else { s with inMem := Memory.putBelow s.cfg.inCap s.inMem j (writeLanes n v) }

/-! ## The fetch -/

/-- What the core's registers select of the stream's rows (30_encoding.md R106). -/
abbrev State.ctx (s : State) : Ctx := ⟨s.phase, s.mode, s.rem, s.version⟩

/-- A stuck core, by the decoder's reason (93 U14). -/
def stuckFault : Reject → Fault
  | .phase3 => .stuckPhase
  | .mode3 => .stuckMode
  | .emptyBody => .stuckBody

/-- What a step does: run an instruction in a state, only reach a state, or stop. -/
inductive Turn where
  | run (i : Instr) (s : State)
  | quiet (s : State)
  | stop (r : Fault)
deriving DecidableEq, Repr

/-- The core's turn: it has a step if and only if STATE = BUSY (41_dispatcher.md R140). The element is decoded at OFFSET. -/
def State.coreTurn (s : State) : Turn :=
  if s.st = .busy then
    match decodeStream s.ctx s.nextBits with
    | .ok i => .run i s
    | .error r => .stop (stuckFault r)
  else .quiet s

/-- The next event of the interleaving (20_memory.md R74). With none pending it is the core's turn (log 1), and the machine
waits where the core has no step (log 2). -/
def State.nextTurn (s : State) : Turn :=
  match s.pending with
  | [] => s.coreTurn
  | .core :: rest => State.coreTurn { s with pending := rest }
  | .bus acc :: rest => .run (decodeAccess acc) { s with pending := rest }
  | .rst :: rest => .quiet (State.rstOp { s with pending := rest })

/-- Places an instruction where the next step fetches it: an access as the next event; a stream element at bit 0 of IN_MEM,
with the core BUSY at OFFSET 0 in the context `c` and its own step next (log 14). -/
def State.placed (c : Ctx) (e : Encoded) (s : State) : State :=
  match e with
  | .bus acc => { s with pending := .bus acc :: s.pending }
  | .stream bits =>
    let bytes := packBytes 2 bits
    { s with
      st := .busy, phase := c.phase, offset := 0#16, reached := [0#16], readFloor := 0#16
      mode := if c.phase = .dispatch then s.mode else c.mode
      rem := if c.phase = .segBody then c.rem else s.rem
      version := if c.phase = .segLen then c.version else s.version
      inMem := Memory.putAll s.inMem 0 bytes
      inLen := BitVec.ofNat 16 bytes.length
      pending := .core :: s.pending }

end Sys2Proof.Machine
end

