-- ==== Sys2Proof/Machine/Alphanumeric.lean ====
section
/-! DEFINITION. The alphanumeric group family (43_alphanumeric.md). -/

namespace Sys2Proof.Machine

/-- A2: AlnumPair. The first index is checked, the second is a remainder mod 45 (43_alphanumeric.md R192, R194). -/
def execA2 (v : BitVec 11) (s : State) : Host.Outcome State Fault Refusal :=
  .next
    (needBits 11
      (fun t =>
        if 44 < v.toNat / 45 then t.raise .invalidAlphanumericValue (v.setWidth 16)
        else append [alpha (v.toNat / 45), alpha (v.toNat % 45)] (State.consume 2#16) t)
      s)

/-- A1: AlnumSingle. An index above 44 is an error marked by bit 15 (43_alphanumeric.md R193). -/
def execA1 (v : BitVec 6) (s : State) : Host.Outcome State Fault Refusal :=
  .next
    (needBits 6
      (fun t =>
        if 44 < v.toNat then t.raise .invalidAlphanumericValue (0x8000#16 ||| v.setWidth 16)
        else append [alpha v.toNat] State.endSegment t)
      s)

end Sys2Proof.Machine
end

