-- ==== Sys2Proof/Machine/BusError.lean ====
section
/-! DEFINITION. The bus error family (46_host_commands.md R250): a response, and no change of state. -/

namespace Sys2Proof.Machine

/-- BUSERR.MISALIGNED.A1 (46_host_commands.md R250). -/
def execBusErrMisalignedA1 (acc : HostAccess) (s : State) : Host.Outcome State Fault Refusal := .next (s.busError acc)

/-- BUSERR.MISALIGNED.A2 (46_host_commands.md R250). -/
def execBusErrMisalignedA2 (acc : HostAccess) (s : State) : Host.Outcome State Fault Refusal := .next (s.busError acc)

/-- BUSERR.MISALIGNED.A3 (46_host_commands.md R250). -/
def execBusErrMisalignedA3 (acc : HostAccess) (s : State) : Host.Outcome State Fault Refusal := .next (s.busError acc)

/-- BUSERR.REG8 (46_host_commands.md R250). -/
def execBusErrReg8 (acc : HostAccess) (s : State) : Host.Outcome State Fault Refusal := .next (s.busError acc)

/-- BUSERR.UNMAPPED.0040 (46_host_commands.md R250). -/
def execBusErrUnmapped0040 (acc : HostAccess) (s : State) : Host.Outcome State Fault Refusal := .next (s.busError acc)

/-- BUSERR.UNMAPPED.0080 (46_host_commands.md R250). -/
def execBusErrUnmapped0080 (acc : HostAccess) (s : State) : Host.Outcome State Fault Refusal := .next (s.busError acc)

/-- BUSERR.UNMAPPED.0100 (46_host_commands.md R250). -/
def execBusErrUnmapped0100 (acc : HostAccess) (s : State) : Host.Outcome State Fault Refusal := .next (s.busError acc)

/-- BUSERR.UNMAPPED.0200 (46_host_commands.md R250). -/
def execBusErrUnmapped0200 (acc : HostAccess) (s : State) : Host.Outcome State Fault Refusal := .next (s.busError acc)

/-- BUSERR.UNMAPPED.0400 (46_host_commands.md R250). -/
def execBusErrUnmapped0400 (acc : HostAccess) (s : State) : Host.Outcome State Fault Refusal := .next (s.busError acc)

/-- BUSERR.UNMAPPED.0800 (46_host_commands.md R250). -/
def execBusErrUnmapped0800 (acc : HostAccess) (s : State) : Host.Outcome State Fault Refusal := .next (s.busError acc)

/-- BUSERR.UNMAPPED.1000 (46_host_commands.md R250). -/
def execBusErrUnmapped1000 (acc : HostAccess) (s : State) : Host.Outcome State Fault Refusal := .next (s.busError acc)

/-- BUSERR.UNMAPPED.4000 (46_host_commands.md R250). -/
def execBusErrUnmapped4000 (acc : HostAccess) (s : State) : Host.Outcome State Fault Refusal := .next (s.busError acc)

end Sys2Proof.Machine
end

