-- ==== Sys2Proof/Machine/ByteMode.lean ====
section
/-! DEFINITION. The byte octet family (44_byte.md). -/

namespace Sys2Proof.Machine

/-- B8: ByteStep. The octet is appended as it is (44_byte.md R211, R212). -/
def execB8 (v : BitVec 8) (s : State) : Host.Outcome State Fault Refusal :=
  .next (needBits 8 (append [v] (State.consume 1#16)) s)

end Sys2Proof.Machine
end

