-- ==== Sys2Proof/Machine/Command.lean ====
section
/-! DEFINITION. The CTRL write family (46_host_commands.md R241 to R243). Bits 31:2 of the write data are ignored. -/

namespace Sys2Proof.Machine

/-- START (46_host_commands.md R241). -/
def execStart (_hi : BitVec 30) (s : State) : Host.Outcome State Fault Refusal :=
  .next (s.startCommand.respond (.write false))

/-- CLEAR, whatever bit 0 is (46_host_commands.md R242, R243). -/
def execClear (_lo : BitVec 1) (_hi : BitVec 30) (s : State) : Host.Outcome State Fault Refusal :=
  .next (s.clearCommand.respond (.write false))

/-- CTRL.NOP: a CTRL write of 00 does nothing (46_host_commands.md R243). -/
def execCtrlNop (_hi : BitVec 30) (s : State) : Host.Outcome State Fault Refusal :=
  .next (s.respond (.write false))

end Sys2Proof.Machine
end

