-- ==== Sys2Proof/Machine/Length.lean ====
section
/-! DEFINITION. The length family: the LEN rows (41_dispatcher.md R148). The band of VERSION is what selects the row. -/

namespace Sys2Proof.Machine

/-- LEN.NUM.B1: a 10-bit length (41_dispatcher.md R148, 30_encoding.md R95). -/
def execLenNumB1 (l : BitVec 10) (s : State) : Host.Outcome State Fault Refusal := .next (lengthField 10 (l.setWidth 16) s)

/-- LEN.NUM.B2: a 12-bit length (41_dispatcher.md R148, 30_encoding.md R95). -/
def execLenNumB2 (l : BitVec 12) (s : State) : Host.Outcome State Fault Refusal := .next (lengthField 12 (l.setWidth 16) s)

/-- LEN.NUM.B3: a 14-bit length (41_dispatcher.md R148, 30_encoding.md R95). -/
def execLenNumB3 (l : BitVec 14) (s : State) : Host.Outcome State Fault Refusal := .next (lengthField 14 (l.setWidth 16) s)

/-- LEN.ALNUM.B1: a 9-bit length (41_dispatcher.md R148, 30_encoding.md R95). -/
def execLenAlnumB1 (l : BitVec 9) (s : State) : Host.Outcome State Fault Refusal := .next (lengthField 9 (l.setWidth 16) s)

/-- LEN.ALNUM.B2: an 11-bit length (41_dispatcher.md R148, 30_encoding.md R95). -/
def execLenAlnumB2 (l : BitVec 11) (s : State) : Host.Outcome State Fault Refusal := .next (lengthField 11 (l.setWidth 16) s)

/-- LEN.ALNUM.B3: a 13-bit length (41_dispatcher.md R148, 30_encoding.md R95). -/
def execLenAlnumB3 (l : BitVec 13) (s : State) : Host.Outcome State Fault Refusal := .next (lengthField 13 (l.setWidth 16) s)

/-- LEN.BYTE.B1: an 8-bit length (41_dispatcher.md R148, 30_encoding.md R95). -/
def execLenByteB1 (l : BitVec 8) (s : State) : Host.Outcome State Fault Refusal := .next (lengthField 8 (l.setWidth 16) s)

/-- LEN.BYTE.B2: a 16-bit length (41_dispatcher.md R148, 30_encoding.md R95). -/
def execLenByteB2 (l : BitVec 16) (s : State) : Host.Outcome State Fault Refusal := .next (lengthField 16 l s)

/-- LEN.BYTE.B3: a 16-bit length (41_dispatcher.md R148, 30_encoding.md R95). -/
def execLenByteB3 (l : BitVec 16) (s : State) : Host.Outcome State Fault Refusal := .next (lengthField 16 l s)

/-- LEN.BADVERSION: UnsupportedVersion with VERSION, before any read (41_dispatcher.md R148, 60_exceptions.md R271). -/
def execLenBadVersion (s : State) : Host.Outcome State Fault Refusal :=
  .next (s.raise .unsupportedVersion (s.version.setWidth 16))

end Sys2Proof.Machine
end

