-- ==== Sys2Proof/Machine/Numeric.lean ====
section
/-! DEFINITION. The numeric group family (42_numeric.md). -/

namespace Sys2Proof.Machine

/-- N3: NumTriple, 3 digits, REM falls by 3 (42_numeric.md R171). -/
def execN3 (v : BitVec 10) (s : State) : Host.Outcome State Fault Refusal :=
  .next (numericGroup 10 3 v.toNat (State.consume 3#16) s)

/-- N2: NumPair, 2 digits, the segment ends (42_numeric.md R172). -/
def execN2 (v : BitVec 7) (s : State) : Host.Outcome State Fault Refusal :=
  .next (numericGroup 7 2 v.toNat State.endSegment s)

/-- N1: NumSingle, 1 digit, the segment ends (42_numeric.md R173). -/
def execN1 (v : BitVec 4) (s : State) : Host.Outcome State Fault Refusal :=
  .next (numericGroup 4 1 v.toNat State.endSegment s)

end Sys2Proof.Machine
end

