-- ==== Sys2Proof/Machine/Register.lean ====
section
/-! DEFINITION. The register access family (46_host_commands.md R244, R245). -/

namespace Sys2Proof.Machine

/-- WR.VERSION (46_host_commands.md R244, 10_state.md R32). -/
def execWrVersion (v : Word) (s : State) : Host.Outcome State Fault Refusal :=
  .next ((s.setVersion (v.setWidth 8)).respond (.write false))

/-- WR.IN_LEN (46_host_commands.md R244, 10_state.md R33). -/
def execWrInLen (v : Word) (s : State) : Host.Outcome State Fault Refusal :=
  .next ((s.setInLen (v.setWidth 16)).respond (.write false))

/-- WR.INT_EN (46_host_commands.md R244, 10_state.md R38). -/
def execWrIntEn (v : Word) (s : State) : Host.Outcome State Fault Refusal :=
  .next ((s.setIe (v.getLsbD 0)).respond (.write false))

/-- WR.REG.IGNORED: a read-only or reserved offset ignores the write, without a bus error (46_host_commands.md R244,
10_state.md R39). -/
def execWrRegIgnored (_r : BitVec 4) (_v : Word) (s : State) : Host.Outcome State Fault Refusal :=
  .next (s.respond (.write false))

/-- RD.REG (46_host_commands.md R245). -/
def execRdReg (r : BitVec 4) (s : State) : Host.Outcome State Fault Refusal :=
  .next (s.registerRead r)

end Sys2Proof.Machine
end

