-- ==== Sys2Proof/Machine/Tag.lean ====
section
/-! DEFINITION. The tag family: TERM, NUM, ALNUM, BYTE, the unsupported tags and EOS (41_dispatcher.md R141 to R147). -/

namespace Sys2Proof.Machine

/-- A tag that opens a segment: OFFSET moves past it, MODE and PHASE are set (41_dispatcher.md R144 to R146). -/
def segmentTag (m : Mode) (s : State) : State := (s.advance 4).enterSegment m

/-- A tag outside the four modes: OFFSET moves past it, then UnsupportedMode with the tag (41_dispatcher.md R147,
60_exceptions.md R273). -/
def unsupportedTag (t : Half) (s : State) : State := (s.advance 4).raise .unsupportedMode t

/-- TERM: OFFSET moves past the tag, then finish_ok (41_dispatcher.md R143). -/
def execTerm (s : State) : Host.Outcome State Fault Refusal := .next (s.advance 4).finishOk

/-- NUM (41_dispatcher.md R144). -/
def execNum (s : State) : Host.Outcome State Fault Refusal := .next (segmentTag .num s)

/-- ALNUM (41_dispatcher.md R145). -/
def execAlnum (s : State) : Host.Outcome State Fault Refusal := .next (segmentTag .alnum s)

/-- BYTE (41_dispatcher.md R146). -/
def execByte (s : State) : Host.Outcome State Fault Refusal := .next (segmentTag .byte s)

/-- UNSUP.0011 (41_dispatcher.md R147). -/
def execUnsup0011 (s : State) : Host.Outcome State Fault Refusal := .next (unsupportedTag 0b0011#16 s)

/-- UNSUP.0101 (41_dispatcher.md R147). -/
def execUnsup0101 (s : State) : Host.Outcome State Fault Refusal := .next (unsupportedTag 0b0101#16 s)

/-- UNSUP.0110 (41_dispatcher.md R147). -/
def execUnsup0110 (s : State) : Host.Outcome State Fault Refusal := .next (unsupportedTag 0b0110#16 s)

/-- UNSUP.0111 (41_dispatcher.md R147). -/
def execUnsup0111 (s : State) : Host.Outcome State Fault Refusal := .next (unsupportedTag 0b0111#16 s)

/-- UNSUP.1000 (41_dispatcher.md R147). -/
def execUnsup1000 (s : State) : Host.Outcome State Fault Refusal := .next (unsupportedTag 0b1000#16 s)

/-- UNSUP.1001 (41_dispatcher.md R147). -/
def execUnsup1001 (s : State) : Host.Outcome State Fault Refusal := .next (unsupportedTag 0b1001#16 s)

/-- UNSUP.1010 (41_dispatcher.md R147). -/
def execUnsup1010 (s : State) : Host.Outcome State Fault Refusal := .next (unsupportedTag 0b1010#16 s)

/-- UNSUP.1011 (41_dispatcher.md R147). -/
def execUnsup1011 (s : State) : Host.Outcome State Fault Refusal := .next (unsupportedTag 0b1011#16 s)

/-- UNSUP.1100 (41_dispatcher.md R147). -/
def execUnsup1100 (s : State) : Host.Outcome State Fault Refusal := .next (unsupportedTag 0b1100#16 s)

/-- UNSUP.1101 (41_dispatcher.md R147). -/
def execUnsup1101 (s : State) : Host.Outcome State Fault Refusal := .next (unsupportedTag 0b1101#16 s)

/-- UNSUP.1110 (41_dispatcher.md R147). -/
def execUnsup1110 (s : State) : Host.Outcome State Fault Refusal := .next (unsupportedTag 0b1110#16 s)

/-- UNSUP.1111 (41_dispatcher.md R147). -/
def execUnsup1111 (s : State) : Host.Outcome State Fault Refusal := .next (unsupportedTag 0b1111#16 s)

/-- EOS: nothing is read, finish_ok (41_dispatcher.md R142). -/
def execEos (s : State) : Host.Outcome State Fault Refusal := .next s.finishOk

end Sys2Proof.Machine
end

