-- ==== Sys2Proof/Machine/Window.lean ====
section
/-! DEFINITION. The buffer window family (46_host_commands.md R246 to R249). -/

namespace Sys2Proof.Machine

/-- WR.IN (46_host_commands.md R246). -/
def execWrIn (n : BusWidth) (j : BitVec 13) (v : Word) (s : State) : Host.Outcome State Fault Refusal :=
  .next ((s.inWindowWrite n j.toNat v).respond (.write false))

/-- RD.IN (46_host_commands.md R247). -/
def execRdIn (n : BusWidth) (j : BitVec 13) (s : State) : Host.Outcome State Fault Refusal :=
  .next (s.respond (.read (windowWord s.inWindowByte n j.toNat) false))

/-- RD.OUT (46_host_commands.md R248). -/
def execRdOut (n : BusWidth) (j : BitVec 15) (s : State) : Host.Outcome State Fault Refusal :=
  .next (s.respond (.read (windowWord s.outWindowByte n j.toNat) false))

/-- WR.OUT: ignored in every state, without a bus error (46_host_commands.md R249). -/
def execWrOut (_n : BusWidth) (_j : BitVec 15) (_v : Word) (s : State) : Host.Outcome State Fault Refusal :=
  .next (s.respond (.write false))

end Sys2Proof.Machine
end

