-- ==== Sys2Proof/Machine/Dispatch.lean ====
section
/-! DEFINITION. What each instruction does: one arm per constructor, each a direct call of its meaning. The meaning of a
stream element holds in every state; decoding selects it by PHASE, MODE, REM and VERSION (log 13). -/

namespace Sys2Proof.Machine

def exec (i : Instr) (s : State) : Host.Outcome State Fault Refusal :=
  match i with
  | .term => Sys2Proof.Machine.execTerm s
  | .num => Sys2Proof.Machine.execNum s
  | .alnum => Sys2Proof.Machine.execAlnum s
  | .byte => Sys2Proof.Machine.execByte s
  | .unsup0011 => Sys2Proof.Machine.execUnsup0011 s
  | .unsup0101 => Sys2Proof.Machine.execUnsup0101 s
  | .unsup0110 => Sys2Proof.Machine.execUnsup0110 s
  | .unsup0111 => Sys2Proof.Machine.execUnsup0111 s
  | .unsup1000 => Sys2Proof.Machine.execUnsup1000 s
  | .unsup1001 => Sys2Proof.Machine.execUnsup1001 s
  | .unsup1010 => Sys2Proof.Machine.execUnsup1010 s
  | .unsup1011 => Sys2Proof.Machine.execUnsup1011 s
  | .unsup1100 => Sys2Proof.Machine.execUnsup1100 s
  | .unsup1101 => Sys2Proof.Machine.execUnsup1101 s
  | .unsup1110 => Sys2Proof.Machine.execUnsup1110 s
  | .unsup1111 => Sys2Proof.Machine.execUnsup1111 s
  | .eos => Sys2Proof.Machine.execEos s
  | .lenNumB1 l => Sys2Proof.Machine.execLenNumB1 l s
  | .lenNumB2 l => Sys2Proof.Machine.execLenNumB2 l s
  | .lenNumB3 l => Sys2Proof.Machine.execLenNumB3 l s
  | .lenAlnumB1 l => Sys2Proof.Machine.execLenAlnumB1 l s
  | .lenAlnumB2 l => Sys2Proof.Machine.execLenAlnumB2 l s
  | .lenAlnumB3 l => Sys2Proof.Machine.execLenAlnumB3 l s
  | .lenByteB1 l => Sys2Proof.Machine.execLenByteB1 l s
  | .lenByteB2 l => Sys2Proof.Machine.execLenByteB2 l s
  | .lenByteB3 l => Sys2Proof.Machine.execLenByteB3 l s
  | .lenBadVersion => Sys2Proof.Machine.execLenBadVersion s
  | .n3 v => Sys2Proof.Machine.execN3 v s
  | .n2 v => Sys2Proof.Machine.execN2 v s
  | .n1 v => Sys2Proof.Machine.execN1 v s
  | .a2 v => Sys2Proof.Machine.execA2 v s
  | .a1 v => Sys2Proof.Machine.execA1 v s
  | .b8 v => Sys2Proof.Machine.execB8 v s
  | .start hi => Sys2Proof.Machine.execStart hi s
  | .clear lo hi => Sys2Proof.Machine.execClear lo hi s
  | .ctrlNop hi => Sys2Proof.Machine.execCtrlNop hi s
  | .wrVersion v => Sys2Proof.Machine.execWrVersion v s
  | .wrInLen v => Sys2Proof.Machine.execWrInLen v s
  | .wrIntEn v => Sys2Proof.Machine.execWrIntEn v s
  | .wrRegIgnored r v => Sys2Proof.Machine.execWrRegIgnored r v s
  | .rdReg r => Sys2Proof.Machine.execRdReg r s
  | .wrIn n j v => Sys2Proof.Machine.execWrIn n j v s
  | .rdIn n j => Sys2Proof.Machine.execRdIn n j s
  | .rdOut n j => Sys2Proof.Machine.execRdOut n j s
  | .wrOut n j v => Sys2Proof.Machine.execWrOut n j v s
  | .busErrMisalignedA1 acc => Sys2Proof.Machine.execBusErrMisalignedA1 acc s
  | .busErrMisalignedA2 acc => Sys2Proof.Machine.execBusErrMisalignedA2 acc s
  | .busErrMisalignedA3 acc => Sys2Proof.Machine.execBusErrMisalignedA3 acc s
  | .busErrReg8 acc => Sys2Proof.Machine.execBusErrReg8 acc s
  | .busErrUnmapped0040 acc => Sys2Proof.Machine.execBusErrUnmapped0040 acc s
  | .busErrUnmapped0080 acc => Sys2Proof.Machine.execBusErrUnmapped0080 acc s
  | .busErrUnmapped0100 acc => Sys2Proof.Machine.execBusErrUnmapped0100 acc s
  | .busErrUnmapped0200 acc => Sys2Proof.Machine.execBusErrUnmapped0200 acc s
  | .busErrUnmapped0400 acc => Sys2Proof.Machine.execBusErrUnmapped0400 acc s
  | .busErrUnmapped0800 acc => Sys2Proof.Machine.execBusErrUnmapped0800 acc s
  | .busErrUnmapped1000 acc => Sys2Proof.Machine.execBusErrUnmapped1000 acc s
  | .busErrUnmapped4000 acc => Sys2Proof.Machine.execBusErrUnmapped4000 acc s

end Sys2Proof.Machine
end

