-- ==== Sys2Proof/Machine/Step.lean ====
section
/-! DEFINITION. One step of the machine: the next event of the interleaving (20_memory.md R74). -/

namespace Sys2Proof.Machine

/-- One step. The model accepts only legal parameters (93 U17, 00_scope.md R8; log 4). -/
def step (s : State) : Host.Outcome State Fault Refusal :=
  if s.cfg.legal then
    match s.nextTurn with
    | .run i t => exec i t
    | .quiet t => .next t
    | .stop r => .fault r
  else .refused .illegalParameters

/-- The state with a word of the opcode table placed where the next step fetches it (log 14). -/
def State.withFetchWord (s : State) (nbits w : Nat) : State :=
  match tableEncoded nbits w with
  | none => s
  | some (c, e) => s.placed c e

end Sys2Proof.Machine
end

