-- ==== Sys2Proof/Machine/Pseudocode.lean ====
section
/-! DEFINITION. The spec's own pseudocode of the core step and of the host accesses, written out arm by arm over ReadBits,
without the instructions of the opcode table. Claims compare `step` with it. -/

namespace Sys2Proof.Machine.Pseudo

/-- raise E(info) (60_exceptions.md R276). -/
def raise (e : ErrCode) (info : Nat) (s : State) : State :=
  { s with errCode := e, errInfo := BitVec.ofNat 16 info, st := .doneErr }

/-- finish_ok (45_accumulator.md R223). -/
def finishOk (s : State) : State := { s with st := .doneOk }

/-- Append(bs), or none where it raises OutputOverflow (45_accumulator.md R221). -/
def appendBytes (bs : List Byte) (s : State) : Option State :=
  if s.outPtr.toNat + bs.length > s.cfg.outCap then none
  else some { s with outMem := Memory.putAll s.outMem s.outPtr.toNat bs, outPtr := BitVec.ofNat 16 (s.outPtr.toNat + bs.length) }

/-- DispatchStep (41_dispatcher.md R141). -/
def dispatchStep (s : State) : State :=
  match s.readBits 4 with
  | (none, t) => finishOk t
  | (some v, t) =>
    if v = 0#16 then finishOk t
    else if v = 1#16 then { t with mode := .num, phase := .segLen }
    else if v = 2#16 then { t with mode := .alnum, phase := .segLen }
    else if v = 4#16 then { t with mode := .byte, phase := .segLen }
    else raise .unsupportedMode v.toNat t

/-- SegLenStep (41_dispatcher.md R148). MODE 3 has no width: the step then only stops, see `Stuck`. -/
def segLenStep (s : State) : State :=
  match band s.version with
  | none => raise .unsupportedVersion s.version.toNat s
  | some b =>
    match width s.mode b with
    | none => s
    | some w =>
      match s.readBits w with
      | (none, t) => raise .insufficientBits w t
      | (some l, t) => { t with rem := l, phase := if l = 0#16 then .dispatch else .segBody }

/-- DecDigits and then Append, for a numeric group of value `v` and `k` digits (42_numeric.md R175, R176). -/
def appendDigits (v k : Nat) (rest : State → State) (t : State) : State :=
  if v < 10 ^ k then
    match appendBytes (decimal k v) t with
    | none => raise .outputOverflow 0 t
    | some u => rest u
  else
    match t.cfg.numOvr with
    | .fault => raise .invalidNumericValue (k * 4096 + v) t
    | .wide =>
      match appendBytes (decimal (k + 1) v) t with
      | none => raise .outputOverflow 0 t
      | some u => rest u

/-- REM <- REM − k; if REM = 0 then PHASE <- DISPATCH (41_dispatcher.md R151). -/
def countDown (k : Nat) (t : State) : State :=
  let r := BitVec.ofNat 16 (t.rem.toNat - k)
  { t with rem := r, phase := if r = 0#16 then .dispatch else t.phase }

/-- REM <- 0; PHASE <- DISPATCH. -/
def lastGroup (t : State) : State := { t with rem := 0#16, phase := .dispatch }

/-- NumTriple (42_numeric.md R171). -/
def numTriple (s : State) : State :=
  match s.readBits 10 with
  | (none, t) => raise .insufficientBits 10 t
  | (some v, t) => appendDigits v.toNat 3 (countDown 3) t

/-- NumPair (42_numeric.md R172). -/
def numPair (s : State) : State :=
  match s.readBits 7 with
  | (none, t) => raise .insufficientBits 7 t
  | (some v, t) => appendDigits v.toNat 2 lastGroup t

/-- NumSingle (42_numeric.md R173). -/
def numSingle (s : State) : State :=
  match s.readBits 4 with
  | (none, t) => raise .insufficientBits 4 t
  | (some v, t) => appendDigits v.toNat 1 lastGroup t

/-- NumStep (42_numeric.md R170). -/
def numStep (s : State) : State :=
  if 3 ≤ s.rem.toNat then numTriple s else if s.rem.toNat = 2 then numPair s else numSingle s

/-- AlnumPair (43_alphanumeric.md R192). -/
def alnumPair (s : State) : State :=
  match s.readBits 11 with
  | (none, t) => raise .insufficientBits 11 t
  | (some v, t) =>
    let c1 := v.toNat / 45
    let c2 := v.toNat % 45
    if c1 > 44 then raise .invalidAlphanumericValue v.toNat t
    else
      match appendBytes [alpha c1, alpha c2] t with
      | none => raise .outputOverflow 0 t
      | some u => countDown 2 u

/-- AlnumSingle (43_alphanumeric.md R193). -/
def alnumSingle (s : State) : State :=
  match s.readBits 6 with
  | (none, t) => raise .insufficientBits 6 t
  | (some v, t) =>
    if v.toNat > 44 then raise .invalidAlphanumericValue (0x8000 + v.toNat) t
    else
      match appendBytes [alpha v.toNat] t with
      | none => raise .outputOverflow 0 t
      | some u => lastGroup u

/-- AlnumStep (43_alphanumeric.md R191). -/
def alnumStep (s : State) : State := if 2 ≤ s.rem.toNat then alnumPair s else alnumSingle s

/-- ByteStep (44_byte.md R211). -/
def byteStep (s : State) : State :=
  match s.readBits 8 with
  | (none, t) => raise .insufficientBits 8 t
  | (some v, t) =>
    match appendBytes [v.setWidth 8] t with
    | none => raise .outputOverflow 0 t
    | some u => countDown 1 u

/-- The registers no arm of CoreStep fits: PHASE 3, MODE 3 where it is read, a body phase with REM 0 (93 U14, 10_state.md
R23 to R25). -/
def Stuck (s : State) : Prop :=
  s.phase = .phase3 ∨ (s.phase = .segLen ∧ band s.version ≠ none ∧ s.mode = .mode3) ∨
    (s.phase = .segBody ∧ (s.mode = .mode3 ∨ s.rem = 0#16))

/-- CoreStep (41_dispatcher.md R140), for a state that is not `Stuck`. -/
def coreStep (s : State) : State :=
  match s.phase with
  | .dispatch => dispatchStep s
  | .segLen => segLenStep s
  | .segBody =>
    match s.mode with
    | .num => numStep s
    | .alnum => alnumStep s
    | .byte => byteStep s
    | .mode3 => s
  | .phase3 => s

/-- The windows of the host address map (20_memory.md R70). -/
abbrev inREG (a : Half) : Prop := a.toNat ≤ 0x003F

/-- The IN window. -/
abbrev inIN (a : Half) : Prop := 0x2000 ≤ a.toNat ∧ a.toNat ≤ 0x3FFF

/-- The OUT window. -/
abbrev inOUT (a : Half) : Prop := 0x8000 ≤ a.toNat

/-- RegRead(o) of the offset `o`, but for BIT_OFFSET while BUSY (46_host_commands.md R245). -/
def regRead (o : Nat) (s : State) : Nat :=
  match o with
  | 0x04 => 4 * (if s.ie = true ∧ (s.st = .doneOk ∨ s.st = .doneErr) then 1 else 0) + s.st.bits.toNat
  | 0x08 => s.version.toNat
  | 0x0C => s.inLen.toNat
  | 0x10 => if s.st = .doneOk then s.outPtr.toNat else 0
  | 0x14 => s.errCode.bits.toNat
  | 0x18 => s.errInfo.toNat
  | 0x1C => s.offset.toNat
  | 0x20 => if s.ie = true then 1 else 0
  | 0x24 => s.cfg.inCap
  | 0x28 => s.cfg.outCap
  | 0x2C => if s.cfg.numOvr = .fault then 1 else 0
  | _ => 0

/-- `n` bytes from address `a`, the byte at address a + i in data bits [8i+7 : 8i] (20_memory.md R64). -/
def littleEndian (byteOf : Nat → Byte) (n : BusWidth) (j : Nat) : Nat :=
  match n with
  | .w8 => (byteOf j).toNat
  | .w32 => (byteOf j).toNat + 2 ^ 8 * (byteOf (j + 1)).toNat + 2 ^ 16 * (byteOf (j + 2)).toNat + 2 ^ 24 * (byteOf (j + 3)).toNat

/-- MemRead(a, n): data, and whether it is BUSERR (20_memory.md R72). -/
def memRead (a : Half) (n : BusWidth) (s : State) : Nat × Bool :=
  if n = .w32 ∧ a.toNat % 4 ≠ 0 then (0, true)
  else if inREG a then
    if n ≠ .w32 then (0, true) else (regRead a.toNat s, false)
  else if inIN a then (littleEndian s.inWindowByte n (a.toNat - 0x2000), false)
  else if inOUT a then (littleEndian s.outWindowByte n (a.toNat - 0x8000), false)
  else (0, true)

/-- START (46_host_commands.md R241). The last two fields are the model's own: a new decode has reached offset 0 alone. -/
def start (s : State) : State :=
  if s.st = .busy then s
  else
    { s with offset := 0#16, outPtr := 0#16, rem := 0#16, phase := .dispatch, errCode := .none, errInfo := 0#16, st := .busy,
             reached := [0#16], readFloor := 0#16 }

/-- CLEAR (46_host_commands.md R242). -/
def clear (s : State) : State :=
  { s with offset := 0#16, outPtr := 0#16, rem := 0#16, phase := .dispatch, errCode := .none, errInfo := 0#16, st := .idle,
           reached := [0#16], readFloor := 0#16 }

/-- RegWrite(o, v) (46_host_commands.md R241 to R244). -/
def regWrite (o : Nat) (v : Word) (s : State) : State :=
  match o with
  | 0x00 =>
    if v.getLsbD 1 = true then clear s
    else if v.getLsbD 0 = true then start s
    else s
  | 0x08 => if s.st ≠ .busy then { s with version := BitVec.ofNat 8 (v.toNat % 256) } else s
  | 0x0C => if s.st ≠ .busy then { s with inLen := BitVec.ofNat 16 (min (v.toNat % 65536) s.cfg.inCap) } else s
  | 0x20 => { s with ie := decide (v.toNat % 2 = 1) }
  | _ => s

/-- InWindowWrite(a, n, v), byte `j` of the window first (46_host_commands.md R246). -/
def inWindowWrite (j : Nat) (n : BusWidth) (v : Word) (s : State) : State :=
  if s.st = .busy then s
  else
    { s with
      inMem := (List.range n.bytes).foldl
        (fun m i => if j + i < s.cfg.inCap then Memory.put m (j + i) (BitVec.ofNat 8 (v.toNat / 2 ^ (8 * i))) else m) s.inMem }

/-- MemWrite(a, n, v): the state, and whether it is BUSERR (20_memory.md R73). -/
def memWrite (a : Half) (n : BusWidth) (v : Word) (s : State) : State × Bool :=
  if n = .w32 ∧ a.toNat % 4 ≠ 0 then (s, true)
  else if inREG a then
    if n ≠ .w32 then (s, true) else (regWrite a.toNat v s, false)
  else if inIN a then (inWindowWrite (a.toNat - 0x2000) n v s, false)
  else if inOUT a then (s, false)
  else (s, true)

end Sys2Proof.Machine.Pseudo
end

