-- ==== Sys2Proof/Safety.lean ====
section
/-! DEFINITION. What a good state of QRPD is, and what the host and the core can tell apart, in the terms claims use. -/

namespace Sys2Proof.Machine

/-- The room the output has behind the stream: how far 5·OUT_PTR stays below 2·OFFSET (45_accumulator.md R225). Inside a
numeric segment the header's bits leave 2 to spare for its last group. -/
def State.slack (s : State) : Nat := if s.phase = .segBody ∧ s.mode = .num then 2 else 0

/-- A good state: what every reachable state of an instance with legal parameters is. -/
structure State.Good (s : State) : Prop where
  /-- The parameters are legal (00_scope.md R8). -/
  legal : s.cfg.legal = true
  /-- IN_MEM is in canonical form, inside its capacity. -/
  inWf : Memory.wf s.inMem
  inBound : ∀ c ∈ s.inMem, c.1 < s.cfg.inCap
  /-- OUT_MEM is in canonical form, inside its capacity. -/
  outWf : Memory.wf s.outMem
  outBound : ∀ c ∈ s.outMem, c.1 < s.cfg.outCap
  /-- IN_LEN is clamped (10_state.md R33). -/
  inLenLe : s.inLen.toNat ≤ s.cfg.inCap
  /-- OUT_PTR stays inside OUT_MEM (10_state.md R26), and every byte below it has been written. -/
  outPtrLe : s.outPtr.toNat ≤ s.cfg.outCap
  outWritten : ∀ j < s.outPtr.toNat, (Memory.byteAt s.outMem j).isSome = true
  /-- PHASE and MODE never hold 3 (10_state.md R23, R24). -/
  phaseLegal : s.phase ≠ .phase3
  modeLegal : s.mode ≠ .mode3
  /-- During a decode OFFSET stays inside the stream (10_state.md R22). -/
  offsetLe : s.st = .busy → s.offset.toNat ≤ 8 * s.inLen.toNat
  /-- A body step is taken only with REM at least 1 (10_state.md R25). -/
  bodyRem : s.st = .busy → s.phase = .segBody → s.rem ≠ 0#16
  /-- The output stays short enough for OUT_CAP (45_accumulator.md R225). -/
  room : s.st = .busy → 5 * s.outPtr.toNat + s.slack ≤ 2 * s.offset.toNat
  /-- ERR_CODE is set exactly in DONE_ERR, and ERR_INFO is 0 with it (10_state.md R35, R36). -/
  errIff : s.errCode ≠ .none ↔ s.st = .doneErr
  errInfoZero : s.errCode = .none → s.errInfo = 0#16
  /-- OutputOverflow never occurs (45_accumulator.md R225), InvalidNumericValue only under FAULT (60_exceptions.md R275). -/
  noOverflow : s.errCode ≠ .outputOverflow
  noNumericError : s.cfg.numOvr = .wide → s.errCode ≠ .invalidNumericValue
  /-- The offsets reached in this decode (10_state.md R37; log 8). -/
  reachedOffset : s.st = .busy → s.offset ∈ s.reached
  reachedLe : s.st = .busy → ∀ o ∈ s.reached, o.toNat ≤ s.offset.toNat
  floorReached : s.st = .busy → s.readFloor ∈ s.reached

/-- The sizes every state of an instance with legal parameters keeps to (00_scope.md R8, 10_state.md R33). -/
def State.Sized (s : State) : Prop := s.cfg.legal = true ∧ s.inLen.toNat ≤ s.cfg.inCap

/-- The core is the next to move: it is BUSY, and the next event is a core step or there is none. -/
def State.coreNext (s : State) : Prop :=
  s.cfg.legal = true ∧ s.st = .busy ∧ (s.pending = [] ∨ ∃ rest, s.pending = .core :: rest)

/-- The state in which the next event runs: the event is taken from the list. -/
def State.popped (s : State) : State := { s with pending := s.pending.tail }

/-- The bytes of `bs` stand in OUT_MEM of `t` from byte `p` of `s` on, and every other byte is as in `s`. -/
def OutWritten (s t : State) (bs : List Byte) : Prop :=
  ∀ a, t.outByte a =
    if s.outPtr.toNat ≤ a ∧ a < s.outPtr.toNat + bs.length then bs.getD (a - s.outPtr.toNat) 0#8 else s.outByte a

/-- Two states that differ only in OUT_MEM. -/
def SameButOutMem (s t : State) : Prop := t = { s with outMem := t.outMem }

/-- Two states that differ only in IN_MEM bytes at or above IN_LEN. -/
def SameBelowInLen (s t : State) : Prop :=
  t = { s with inMem := t.inMem } ∧ ∀ j < s.inLen.toNat, s.inByte j = t.inByte j

/-- Two states in which a decode goes the same way: they agree on the parameters, the host's inputs, the core's registers
and the output so far; MODE counts only inside a segment (10_state.md R24). -/
structure SameDecode (s t : State) : Prop where
  cfg : t.cfg = s.cfg
  st : t.st = s.st
  offset : t.offset = s.offset
  phase : t.phase = s.phase
  mode : s.phase ≠ .dispatch → t.mode = s.mode
  rem : t.rem = s.rem
  outPtr : t.outPtr = s.outPtr
  errCode : t.errCode = s.errCode
  errInfo : t.errInfo = s.errInfo
  version : t.version = s.version
  inLen : t.inLen = s.inLen
  inByte : ∀ j < s.inLen.toNat, t.inByte j = s.inByte j
  outByte : ∀ j < s.outPtr.toNat, t.outByte j = s.outByte j

/-! ## What instructions leave -/

/-- A LEN row with a length field: its width (30_encoding.md R95) and its value. -/
def lengthRow : Instr → Option (Nat × Nat)
  | .lenNumB1 l => some (10, l.toNat)
  | .lenNumB2 l => some (12, l.toNat)
  | .lenNumB3 l => some (14, l.toNat)
  | .lenAlnumB1 l => some (9, l.toNat)
  | .lenAlnumB2 l => some (11, l.toNat)
  | .lenAlnumB3 l => some (13, l.toNat)
  | .lenByteB1 l => some (8, l.toNat)
  | .lenByteB2 l => some (16, l.toNat)
  | .lenByteB3 l => some (16, l.toNat)
  | _ => none

/-- The byte of a decimal digit, 0x30 + d (42_numeric.md R175). -/
def digit (d : Nat) : Byte := BitVec.ofNat 8 (0x30 + d)

/-- What a group that completes leaves: the bytes appended, OFFSET past its `w` bits, REM less `k`, DISPATCH at 0, and
everything else as before. -/
def GroupDone (s t : State) (w k : Nat) (bs : List Byte) : Prop :=
  OutWritten s t bs ∧ t.outPtr.toNat = s.outPtr.toNat + bs.length ∧ t.offset.toNat = s.offset.toNat + w ∧
    t.rem.toNat = s.rem.toNat - k ∧ (t.rem = 0#16 → t.phase = .dispatch) ∧ (t.rem ≠ 0#16 → t.phase = .segBody) ∧
    (∀ a, t.inByte a = s.inByte a) ∧
    t = { s with outMem := t.outMem, outPtr := t.outPtr, offset := t.offset, reached := t.offset :: s.reached, rem := t.rem, phase := t.phase }

/-- What a group that raises after its read leaves: the error, OFFSET past its `w` bits, and everything else as before. -/
def GroupRaised (s t : State) (w : Nat) (e : ErrCode) (info : Nat) : Prop :=
  t.st = .doneErr ∧ t.errCode = e ∧ t.errInfo.toNat = info ∧ t.offset.toNat = s.offset.toNat + w ∧
    (∀ a, t.outByte a = s.outByte a) ∧
    t = { s with st := t.st, errCode := t.errCode, errInfo := t.errInfo, offset := t.offset, reached := t.offset :: s.reached }

/-- The response of a bus error to each kind of access (20_memory.md R72, R73). -/
def busErrResponse : HostAccess → Response
  | .read _ _ => .read 0#32 true
  | .write _ _ _ => .write true

end Sys2Proof.Machine
end

