-- ==== Sys2Proof/Certificates/Slice0/Obligations.lean ====
section
/-! DEFINITION. The statements for the provers, from the rules of spec/. -/

open Sys2Proof Sys2Proof.Machine

/-! ## Reset -/

/-- 10_state.md R44: the value of every piece of state after reset, and that irq is low. A byte of a buffer is a free value,
here the one before any rst event (logs 5 and 6). The model's own fields are not named here. -/
def Obligations.ResetGivesTheTableOfValues : Prop :=
  State.reset = State.resetOf Params.default ∧
  ∀ cfg : Params, ∀ s : State, s = State.resetOf cfg →
    s.st = .idle ∧ s.offset = 0#16 ∧ s.phase = .dispatch ∧ s.mode = .num ∧ s.rem = 0#16 ∧ s.outPtr = 0#16 ∧
    s.errCode = .none ∧ s.errInfo = 0#16 ∧ s.version = 0#8 ∧ s.inLen = 0#16 ∧ s.ie = false ∧ s.irq = false ∧ s.cfg = cfg ∧
    (∀ a, s.inByte a = Config.inMemDraw [] a) ∧ (∀ a, s.outByte a = Config.outMemDraw [] a) ∧
    (∀ a, s.outWindowByte a = 0#8)

/-- 70_reset_and_hazards.md R300, R309, 10_state.md R44: rst from any state, a decode in progress included. Every byte of
IN_MEM and OUT_MEM is then a free value, whatever stood written before; what it is drawn from, and the fields draws, past
and pending, are the model's own (logs 5, 6 and 7). -/
def Obligations.RstResetsFromAnyState : Prop :=
  ∀ (s : State) (rest : List Event), s.cfg.legal = true → s.pending = .rst :: rest →
    ∃ t, step s = .next t ∧
      t = { State.resetOf s.cfg with draws := s.draws, past := (s.inMem, s.outMem) :: s.past, pending := rest } ∧
      (∀ a, t.inByte a = Config.inMemDraw t.past a) ∧ (∀ a, t.outByte a = Config.outMemDraw t.past a) ∧
      (∀ a, t.outWindowByte a = 0#8)

/-! ## Decoding -/

/-- 30_encoding.md R92 to R100, R107: decoding the encoding of a well-formed instruction gives it back, in every context
that selects its row and with anything behind it in the stream; EOS stands for fewer than 4 bits. -/
def Obligations.DecodeOfEncodeIsTheInstruction : Prop :=
  ∀ (i : Instr) (c : Ctx) (rest : List Bool), i.wf = true → c.selects i = true → (i = .eos → rest.length < 4) →
    match encode i with
    | .stream bits => decode c (.stream (bits ++ rest)) = .ok i
    | .bus acc => decode c (.bus acc) = .ok i

/-- The other direction: what is decoded is well-formed, its row is the one the context selects, and its encoding is the
access, or the front of the stream unless fewer bits are left than the field has. -/
def Obligations.DecodedInstructionEncodesTheWords : Prop :=
  ∀ (c : Ctx) (i : Instr),
    (∀ bits, decode c (.stream bits) = .ok i →
      i.wf = true ∧ c.selects i = true ∧
        ∃ field, encode i = .stream field ∧ (field <+: bits ∨ bits.length < field.length)) ∧
    (∀ acc, decode c (.bus acc) = .ok i → i.wf = true ∧ encode i = .bus acc)

/-- 30_encoding.md R94, R95: the length row by MODE and VERSION, for every VERSION from 0 to 255 and whatever the stream
holds. -/
def Obligations.VersionAndModeSelectTheLengthRow : Prop :=
  ∀ (v : BitVec 8) (r : Half) (bits : List Bool),
    let row (m : Mode) := decodeStream ⟨.segLen, m, r, v⟩ bits
    (1 ≤ v.toNat ∧ v.toNat ≤ 9 →
      row .num = .ok (.lenNumB1 (operand 10 bits)) ∧ row .alnum = .ok (.lenAlnumB1 (operand 9 bits)) ∧
      row .byte = .ok (.lenByteB1 (operand 8 bits))) ∧
    (10 ≤ v.toNat ∧ v.toNat ≤ 26 →
      row .num = .ok (.lenNumB2 (operand 12 bits)) ∧ row .alnum = .ok (.lenAlnumB2 (operand 11 bits)) ∧
      row .byte = .ok (.lenByteB2 (operand 16 bits))) ∧
    (27 ≤ v.toNat ∧ v.toNat ≤ 40 →
      row .num = .ok (.lenNumB3 (operand 14 bits)) ∧ row .alnum = .ok (.lenAlnumB3 (operand 13 bits)) ∧
      row .byte = .ok (.lenByteB3 (operand 16 bits))) ∧
    (v.toNat = 0 ∨ 41 ≤ v.toNat → ∀ m, row m = .ok .lenBadVersion)

/-- 30_encoding.md R92, R96 to R98, R107: words written out from the encodings, one or more of each family. -/
def Obligations.WordsWrittenOutDecodeAsTheSpecSays : Prop :=
  decodeBytes ⟨.dispatch, .num, 0#16, 1#8⟩ [0b00010000#8] = .ok .num ∧
  decodeBytes ⟨.dispatch, .num, 0#16, 1#8⟩ [0b10110000#8] = .ok .unsup1011 ∧
  decodeBytes ⟨.segLen, .num, 0#16, 1#8⟩ [0b00000000#8, 0b11000000#8] = .ok (.lenNumB1 3#10) ∧
  decodeBytes ⟨.segBody, .num, 3#16, 1#8⟩ [0b00011110#8, 0b11000000#8] = .ok (.n3 123#10) ∧
  decodeBytes ⟨.segBody, .alnum, 2#16, 1#8⟩ [0b00111001#8, 0b10100000#8] = .ok (.a2 461#11) ∧
  decodeBytes ⟨.segBody, .byte, 1#16, 1#8⟩ [0b01000001#8] = .ok (.b8 0x41#8) ∧
  decodeAccess (.write .w32 0x0000#16 0x00000001#32) = .start 0#30 ∧
  decodeAccess (.write .w32 0x0000#16 0x00000003#32) = .clear 1#1 0#30 ∧
  decodeAccess (.read .w32 0x0010#16) = .rdReg 4#4 ∧
  decodeAccess (.write .w8 0x2005#16 0xAB#32) = .wrIn .w8 5#13 0xAB#32 ∧
  decodeAccess (.read .w32 0x2001#16) = .busErrMisalignedA1 (.read .w32 0x2001#16)

/-! ## The step -/

/-- 41_dispatcher.md R140, 20_memory.md R74: one step runs the element decoded at OFFSET, or the access that is next, in the
state with the event taken from the list; nothing else is added. -/
def Obligations.StepRunsTheDecodedInstruction : Prop :=
  (∀ (s : State) (i : Instr), s.coreNext → decode s.ctx (.stream s.nextBits) = .ok i → step s = exec i s.popped) ∧
  (∀ (s : State) (acc : HostAccess) (rest : List Event) (i : Instr), s.cfg.legal = true → s.pending = .bus acc :: rest →
    decode s.ctx (.bus acc) = .ok i → step s = exec i s.popped)

/-- 41_dispatcher.md R140: in IDLE, DONE_OK and DONE_ERR the core has no step. That its turn then passes, and that the
machine waits with no event pending, is the model's choice (logs 1 and 2). -/
def Obligations.CoreHasNoStepOutsideBusy : Prop :=
  ∀ s : State, s.cfg.legal = true → s.st ≠ .busy →
    (s.pending = [] → step s = .next s) ∧ (∀ rest, s.pending = .core :: rest → step s = .next { s with pending := rest })

/-- 93 U14, 10_state.md R25: the stuck states stop by name, and only they (log 9); 93 U17: illegal parameters are refused
(log 4). -/
def Obligations.StepStopsExactlyInStuckStates : Prop :=
  (∀ s : State, s.coreNext → (Pseudo.Stuck s ↔ ∃ r, step s = .fault r)) ∧
  (∀ s : State, s.coreNext → s.phase = .phase3 → step s = .fault .stuckPhase) ∧
  (∀ s : State, s.cfg.legal = false → step s = .refused .illegalParameters)

/-- 40_bit_cursor.md R121, R122: ReadBits(n), its value bit by bit, most significant bit first, and its exhaustion. -/
def Obligations.ReadBitsReadsMostSignificantFirst : Prop :=
  ∀ (s : State) (n : Nat), 1 ≤ n → n ≤ 16 →
    (8 * s.inLen.toNat < s.offset.toNat + n → s.readBits n = (none, s)) ∧
    (s.offset.toNat + n ≤ 8 * s.inLen.toNat →
      ∃ v : Half, s.readBits n =
          (some v, { s with offset := s.offset + BitVec.ofNat 16 n, reached := (s.offset + BitVec.ofNat 16 n) :: s.reached }) ∧
        v.toNat < 2 ^ n ∧
        ∀ j < n, v.getLsbD (n - 1 - j) = (s.inByte ((s.offset.toNat + j) / 8)).getLsbD (7 - (s.offset.toNat + j) % 8))

/-! ## Tags -/

/-- 41_dispatcher.md R144, R145, R146: the tags NUM, ALNUM and BYTE. -/
def Obligations.SegmentTagEntersTheSegment : Prop :=
  ∀ (s : State) (i : Instr) (m : Mode) (v : Half), s.Sized → s.coreNext → s.phase = .dispatch →
    (i, m, v) ∈ [(Instr.num, Mode.num, 1#16), (Instr.alnum, Mode.alnum, 2#16), (Instr.byte, Mode.byte, 4#16)] →
    (s.readBits 4).1 = some v →
    ∃ t, step s = .next t ∧ exec i s.popped = .next t ∧
      t.offset.toNat = s.offset.toNat + 4 ∧ t.mode = m ∧ t.phase = .segLen ∧
      t = { s.popped with offset := t.offset, reached := t.offset :: s.reached, mode := t.mode, phase := t.phase }

/-- 41_dispatcher.md R142, R143: TERM, and the end of the stream, end the decode with success for every VERSION. -/
def Obligations.TermAndEndOfStreamFinish : Prop :=
  ∀ s : State, s.Sized → s.coreNext → s.phase = .dispatch →
    ((s.readBits 4).1 = some 0#16 →
      ∃ t, step s = .next t ∧ exec .term s.popped = .next t ∧ t.st = .doneOk ∧ t.offset.toNat = s.offset.toNat + 4 ∧
        t = { s.popped with st := t.st, offset := t.offset, reached := t.offset :: s.reached }) ∧
    ((s.readBits 4).1 = none →
      ∃ t, step s = .next t ∧ exec .eos s.popped = .next t ∧ t.st = .doneOk ∧ t = { s.popped with st := t.st })

/-- 41_dispatcher.md R147, 60_exceptions.md R273: each of the twelve other tags raises UnsupportedMode with the tag, OFFSET
just after it, and the version is not checked. -/
def Obligations.UnsupportedTagRaisesUnsupportedMode : Prop :=
  ∀ (s : State) (i : Instr) (v : Half), s.Sized → s.coreNext → s.phase = .dispatch →
    (i, v) ∈ [(Instr.unsup0011, 3#16), (Instr.unsup0101, 5#16), (Instr.unsup0110, 6#16), (Instr.unsup0111, 7#16),
      (Instr.unsup1000, 8#16), (Instr.unsup1001, 9#16), (Instr.unsup1010, 10#16), (Instr.unsup1011, 11#16),
      (Instr.unsup1100, 12#16), (Instr.unsup1101, 13#16), (Instr.unsup1110, 14#16), (Instr.unsup1111, 15#16)] →
    (s.readBits 4).1 = some v →
    ∃ t, step s = .next t ∧ exec i s.popped = .next t ∧
      t.st = .doneErr ∧ t.errCode = .unsupportedMode ∧ t.errCode.bits = 3#4 ∧ t.errInfo = v ∧
      t.offset.toNat = s.offset.toNat + 4 ∧
      t = { s.popped with st := t.st, errCode := t.errCode, errInfo := t.errInfo, offset := t.offset, reached := t.offset :: s.reached }

/-! ## Length fields -/

/-- 41_dispatcher.md R148, R154: each of the nine LEN rows loads REM with its length, and goes to the body, or back to
DISPATCH for an empty segment. -/
def Obligations.LengthFieldLoadsRem : Prop :=
  ∀ (s : State) (i : Instr) (w l : Nat), s.Sized → lengthRow i = some (w, l) →
    s.offset.toNat + w ≤ 8 * s.inLen.toNat →
    ∃ t, exec i s = .next t ∧ t.offset.toNat = s.offset.toNat + w ∧ t.rem.toNat = l ∧
      (l = 0 → t.phase = .dispatch) ∧ (l ≠ 0 → t.phase = .segBody) ∧
      t = { s with offset := t.offset, reached := t.offset :: s.reached, rem := t.rem, phase := t.phase }

/-- 60_exceptions.md R272: a length field or a group that the stream is too short for raises InsufficientBits with the
requested width, OFFSET where the read would have started, nothing else changed; a tag read never raises it. -/
def Obligations.ShortReadRaisesInsufficientBits : Prop :=
  (∀ (s : State) (i : Instr) (w : Nat),
    ((∃ l, lengthRow i = some (w, l)) ∨ (∃ v, i = .n3 v ∧ w = 10) ∨ (∃ v, i = .n2 v ∧ w = 7) ∨ (∃ v, i = .n1 v ∧ w = 4) ∨
      (∃ v, i = .a2 v ∧ w = 11) ∨ (∃ v, i = .a1 v ∧ w = 6) ∨ (∃ v, i = .b8 v ∧ w = 8)) →
    8 * s.inLen.toNat < s.offset.toNat + w →
    ∃ t, exec i s = .next t ∧ t.st = .doneErr ∧ t.errCode = .insufficientBits ∧ t.errCode.bits = 2#4 ∧ t.errInfo.toNat = w ∧
      t = { s with st := t.st, errCode := t.errCode, errInfo := t.errInfo }) ∧
  (∀ s t : State, s.coreNext → s.phase = .dispatch → step s = .next t → t.st = .doneErr → t.errCode ≠ .insufficientBits)

/-- 60_exceptions.md R271, R279, 41_dispatcher.md R149: a segment entered with VERSION outside 1..40 raises
UnsupportedVersion with VERSION, before any read, however few bits are left. -/
def Obligations.BadVersionRaisesUnsupportedVersion : Prop :=
  ∀ s : State, s.coreNext → s.phase = .segLen → (s.version.toNat = 0 ∨ 41 ≤ s.version.toNat) →
    ∃ t, step s = .next t ∧ exec .lenBadVersion s.popped = .next t ∧
      t.st = .doneErr ∧ t.errCode = .unsupportedVersion ∧ t.errCode.bits = 1#4 ∧ t.errInfo.toNat = s.version.toNat ∧
      t = { s.popped with st := t.st, errCode := t.errCode, errInfo := t.errInfo }

/-! ## Groups -/

/-- 42_numeric.md R171, R172, R173, R175: a numeric group in range appends its digits, with leading zeros. -/
def Obligations.NumericGroupAppendsItsDigits : Prop :=
  ∀ s : State, s.Sized →
    (∀ v : BitVec 10, s.ctx.selects (.n3 v) = true → v.toNat < 1000 → s.offset.toNat + 10 ≤ 8 * s.inLen.toNat →
      s.outPtr.toNat + 3 ≤ s.cfg.outCap →
      ∃ t, exec (.n3 v) s = .next t ∧ GroupDone s t 10 3
        [digit (v.toNat / 100), digit (v.toNat / 10 % 10), digit (v.toNat % 10)]) ∧
    (∀ v : BitVec 7, s.ctx.selects (.n2 v) = true → v.toNat < 100 → s.offset.toNat + 7 ≤ 8 * s.inLen.toNat →
      s.outPtr.toNat + 2 ≤ s.cfg.outCap →
      ∃ t, exec (.n2 v) s = .next t ∧ GroupDone s t 7 2
        [digit (v.toNat / 10), digit (v.toNat % 10)]) ∧
    (∀ v : BitVec 4, s.ctx.selects (.n1 v) = true → v.toNat < 10 → s.offset.toNat + 4 ≤ 8 * s.inLen.toNat →
      s.outPtr.toNat + 1 ≤ s.cfg.outCap →
      ∃ t, exec (.n1 v) s = .next t ∧ GroupDone s t 4 1 [digit v.toNat])

/-- 42_numeric.md R176 with NUMERIC_OVERRANGE = WIDE: a group over range appends all its digits, one more than it counts. -/
def Obligations.OverrangeUnderWideAppendsAllDigits : Prop :=
  ∀ s : State, s.Sized → s.cfg.numOvr = .wide →
    (∀ v : BitVec 10, s.ctx.selects (.n3 v) = true → 1000 ≤ v.toNat → s.offset.toNat + 10 ≤ 8 * s.inLen.toNat →
      s.outPtr.toNat + 4 ≤ s.cfg.outCap →
      ∃ t, exec (.n3 v) s = .next t ∧ GroupDone s t 10 3
        [digit 1, digit 0, digit (v.toNat / 10 % 10), digit (v.toNat % 10)]) ∧
    (∀ v : BitVec 7, s.ctx.selects (.n2 v) = true → 100 ≤ v.toNat → s.offset.toNat + 7 ≤ 8 * s.inLen.toNat →
      s.outPtr.toNat + 3 ≤ s.cfg.outCap →
      ∃ t, exec (.n2 v) s = .next t ∧ GroupDone s t 7 2
        [digit 1, digit (v.toNat / 10 % 10), digit (v.toNat % 10)]) ∧
    (∀ v : BitVec 4, s.ctx.selects (.n1 v) = true → 10 ≤ v.toNat → s.offset.toNat + 4 ≤ 8 * s.inLen.toNat →
      s.outPtr.toNat + 2 ≤ s.cfg.outCap →
      ∃ t, exec (.n1 v) s = .next t ∧ GroupDone s t 4 1 [digit 1, digit (v.toNat % 10)])

/-- 60_exceptions.md R275, 42_numeric.md R176: under FAULT a group over range raises InvalidNumericValue with
(k << 12) | v, OFFSET just after the group; no other step does: not under WIDE, and not on a group in range, the group
being the one that REM selects (30_encoding.md R106). -/
def Obligations.OverrangeUnderFaultRaises : Prop :=
  (∀ s : State, s.Sized → s.cfg.numOvr = .fault →
    (∀ v : BitVec 10, 1000 ≤ v.toNat → s.offset.toNat + 10 ≤ 8 * s.inLen.toNat →
      ∃ t, exec (.n3 v) s = .next t ∧ GroupRaised s t 10 .invalidNumericValue (3 * 4096 + v.toNat)) ∧
    (∀ v : BitVec 7, 100 ≤ v.toNat → s.offset.toNat + 7 ≤ 8 * s.inLen.toNat →
      ∃ t, exec (.n2 v) s = .next t ∧ GroupRaised s t 7 .invalidNumericValue (2 * 4096 + v.toNat)) ∧
    (∀ v : BitVec 4, 10 ≤ v.toNat → s.offset.toNat + 4 ≤ 8 * s.inLen.toNat →
      ∃ t, exec (.n1 v) s = .next t ∧ GroupRaised s t 4 .invalidNumericValue (4096 + v.toNat))) ∧
  (∀ s t : State, s.coreNext → step s = .next t → t.st = .doneErr → t.errCode = .invalidNumericValue →
    let group : Nat × Nat := if 3 ≤ s.rem.toNat then (10, 3) else if s.rem = 2#16 then (7, 2) else (4, 1)
    s.cfg.numOvr = .fault ∧ s.phase = .segBody ∧ s.mode = .num ∧
      ∃ v : Half, (s.readBits group.1).1 = some v ∧ 10 ^ group.2 ≤ v.toNat ∧ t.errInfo.toNat = group.2 * 4096 + v.toNat)

/-- 43_alphanumeric.md R192, R193, R194: a pair 45·c1 + c2 of legal indices appends ALPHA[c1] and then ALPHA[c2], a single
appends ALPHA[i]. -/
def Obligations.AlphanumericGroupAppendsItsSymbols : Prop :=
  ∀ s : State, s.Sized →
    (∀ (v : BitVec 11) (c1 c2 : Nat), s.ctx.selects (.a2 v) = true → c1 ≤ 44 → c2 ≤ 44 → v.toNat = 45 * c1 + c2 →
      s.offset.toNat + 11 ≤ 8 * s.inLen.toNat → s.outPtr.toNat + 2 ≤ s.cfg.outCap →
      ∃ t, exec (.a2 v) s = .next t ∧ GroupDone s t 11 2 [alpha c1, alpha c2]) ∧
    (∀ v : BitVec 6, s.ctx.selects (.a1 v) = true → v.toNat ≤ 44 →
      s.offset.toNat + 6 ≤ 8 * s.inLen.toNat → s.outPtr.toNat + 1 ≤ s.cfg.outCap →
      ∃ t, exec (.a1 v) s = .next t ∧ GroupDone s t 6 1 [alpha v.toNat])

/-- 60_exceptions.md R274: a pair from 2025 on raises InvalidAlphanumericValue with the value, a single from 45 on with
0x8000 | i. -/
def Obligations.BadAlphanumericValueRaises : Prop :=
  ∀ s : State, s.Sized →
    (∀ v : BitVec 11, 2025 ≤ v.toNat → s.offset.toNat + 11 ≤ 8 * s.inLen.toNat →
      ∃ t, exec (.a2 v) s = .next t ∧ GroupRaised s t 11 .invalidAlphanumericValue v.toNat) ∧
    (∀ v : BitVec 6, 45 ≤ v.toNat → s.offset.toNat + 6 ≤ 8 * s.inLen.toNat →
      ∃ t, exec (.a1 v) s = .next t ∧ GroupRaised s t 6 .invalidAlphanumericValue (0x8000 + v.toNat))

/-- 10_state.md R40, 43_alphanumeric.md R190: ALPHA is the 45 symbols in the order of the source, each as its ASCII code. -/
def Obligations.AlphabetIsTheListedSymbols : Prop :=
  (List.range 45).map alpha =
    "0123456789ABCDEFGHIJKLMNOPQRSTUVWXYZ $%*+-./:".toList.map (fun c => BitVec.ofNat 8 c.toNat)

/-- 44_byte.md R211, R212: an octet is appended as it is. -/
def Obligations.OctetIsAppendedUnchanged : Prop :=
  ∀ (s : State) (v : BitVec 8), s.Sized → s.ctx.selects (.b8 v) = true →
    s.offset.toNat + 8 ≤ 8 * s.inLen.toNat → s.outPtr.toNat + 1 ≤ s.cfg.outCap →
    ∃ t, exec (.b8 v) s = .next t ∧ GroupDone s t 8 1 [v]

/-- 45_accumulator.md R221, 60_exceptions.md R277: bytes that do not fit raise OutputOverflow(0) and none of them is
written; OFFSET stands after the group. -/
def Obligations.OutputThatDoesNotFitRaisesOverflow : Prop :=
  ∀ s : State, s.Sized →
    (∀ v : BitVec 10, s.offset.toNat + 10 ≤ 8 * s.inLen.toNat →
      (v.toNat < 1000 ∧ s.cfg.outCap < s.outPtr.toNat + 3) ∨
        (1000 ≤ v.toNat ∧ s.cfg.numOvr = .wide ∧ s.cfg.outCap < s.outPtr.toNat + 4) →
      ∃ t, exec (.n3 v) s = .next t ∧ GroupRaised s t 10 .outputOverflow 0) ∧
    (∀ v : BitVec 7, s.offset.toNat + 7 ≤ 8 * s.inLen.toNat →
      (v.toNat < 100 ∧ s.cfg.outCap < s.outPtr.toNat + 2) ∨
        (100 ≤ v.toNat ∧ s.cfg.numOvr = .wide ∧ s.cfg.outCap < s.outPtr.toNat + 3) →
      ∃ t, exec (.n2 v) s = .next t ∧ GroupRaised s t 7 .outputOverflow 0) ∧
    (∀ v : BitVec 4, s.offset.toNat + 4 ≤ 8 * s.inLen.toNat →
      (v.toNat < 10 ∧ s.cfg.outCap < s.outPtr.toNat + 1) ∨
        (10 ≤ v.toNat ∧ s.cfg.numOvr = .wide ∧ s.cfg.outCap < s.outPtr.toNat + 2) →
      ∃ t, exec (.n1 v) s = .next t ∧ GroupRaised s t 4 .outputOverflow 0) ∧
    (∀ v : BitVec 11, v.toNat < 2025 → s.offset.toNat + 11 ≤ 8 * s.inLen.toNat → s.cfg.outCap < s.outPtr.toNat + 2 →
      ∃ t, exec (.a2 v) s = .next t ∧ GroupRaised s t 11 .outputOverflow 0) ∧
    (∀ v : BitVec 6, v.toNat < 45 → s.offset.toNat + 6 ≤ 8 * s.inLen.toNat → s.cfg.outCap < s.outPtr.toNat + 1 →
      ∃ t, exec (.a1 v) s = .next t ∧ GroupRaised s t 6 .outputOverflow 0) ∧
    (∀ v : BitVec 8, s.offset.toNat + 8 ≤ 8 * s.inLen.toNat → s.cfg.outCap < s.outPtr.toNat + 1 →
      ∃ t, exec (.b8 v) s = .next t ∧ GroupRaised s t 8 .outputOverflow 0)

/-- 42_numeric.md R177, 43_alphanumeric.md R195, 44_byte.md R212, 45_accumulator.md R226: a body step that does not end the
decode moves bytes from REM to OUT_PTR one for one, and a numeric group over range adds one byte more. -/
def Obligations.BodyStepMovesRemToOutPtr : Prop :=
  ∀ s t : State, s.Good → s.coreNext → s.phase = .segBody → step s = .next t → t.st = .busy →
    let group : Nat × Nat := if 3 ≤ s.rem.toNat then (10, 3) else if s.rem = 2#16 then (7, 2) else (4, 1)
    let tooBig : Prop := s.mode = .num ∧ ∃ v : Half, (s.readBits group.1).1 = some v ∧ 10 ^ group.2 ≤ v.toNat
    (¬ tooBig → t.outPtr.toNat + t.rem.toNat = s.outPtr.toNat + s.rem.toNat) ∧
    (tooBig → t.outPtr.toNat + t.rem.toNat = s.outPtr.toNat + s.rem.toNat + 1)

/-! ## Host commands and register access -/

/-- 46_host_commands.md R241: START from IDLE, DONE_OK or DONE_ERR begins a decode; while BUSY it has no effect. It is
never refused with a bus error, and v[31:2] are ignored. -/
def Obligations.StartBeginsADecode : Prop :=
  ∀ (s : State) (hi : BitVec 30),
    ∃ t, exec (.start hi) s = .next t ∧ t.resp = some (.write false) ∧
      (s.st = .busy → t = { s with resp := t.resp }) ∧
      (s.st ≠ .busy →
        t.st = .busy ∧ t.offset = 0#16 ∧ t.outPtr = 0#16 ∧ t.rem = 0#16 ∧ t.phase = .dispatch ∧ t.errCode = .none ∧ t.errInfo = 0#16 ∧
        (∀ a, t.inByte a = s.inByte a) ∧ (∀ a, t.outByte a = s.outByte a) ∧
        t = { s with st := t.st, offset := t.offset, outPtr := t.outPtr, rem := t.rem, phase := t.phase, errCode := t.errCode,
                     errInfo := t.errInfo, reached := t.reached, readFloor := t.readFloor, resp := t.resp })

/-- 46_host_commands.md R242, R243: CLEAR from any state, with bit 0 of the write either way. -/
def Obligations.ClearGoesToIdle : Prop :=
  ∀ (s : State) (lo : BitVec 1) (hi : BitVec 30),
    ∃ t, exec (.clear lo hi) s = .next t ∧ t.resp = some (.write false) ∧
      t.st = .idle ∧ t.offset = 0#16 ∧ t.outPtr = 0#16 ∧ t.rem = 0#16 ∧ t.phase = .dispatch ∧ t.errCode = .none ∧ t.errInfo = 0#16 ∧
      (∀ a, t.inByte a = s.inByte a) ∧ (∀ a, t.outByte a = s.outByte a) ∧
      t = { s with st := t.st, offset := t.offset, outPtr := t.outPtr, rem := t.rem, phase := t.phase, errCode := t.errCode,
                   errInfo := t.errInfo, reached := t.reached, readFloor := t.readFloor, resp := t.resp }

/-- 46_host_commands.md R243: what a CTRL write is, by its two low bits; 00 does nothing; the other bits are ignored. -/
def Obligations.CtrlWriteIsDecidedByTwoBits : Prop :=
  ∀ (v : Word) (s : State),
    (v.getLsbD 1 = true → exec (decodeAccess (.write .w32 0x0000#16 v)) s = exec (.clear 0#1 0#30) s) ∧
    (v.getLsbD 1 = false → v.getLsbD 0 = true → exec (decodeAccess (.write .w32 0x0000#16 v)) s = exec (.start 0#30) s) ∧
    (v.getLsbD 1 = false → v.getLsbD 0 = false →
      exec (decodeAccess (.write .w32 0x0000#16 v)) s = exec (.ctrlNop 0#30) s ∧
      ∃ t, exec (.ctrlNop 0#30) s = .next t ∧ t.resp = some (.write false) ∧ t = { s with resp := t.resp })

/-- 46_host_commands.md R244, 10_state.md R32, R33, R38, R39: what a register write stores, and what is dropped. -/
def Obligations.RegisterWriteStoresItsField : Prop :=
  ∀ (s : State) (v : Word),
    (∃ t, exec (.wrVersion v) s = .next t ∧ t.resp = some (.write false) ∧
      (s.st = .busy → t.version = s.version) ∧ (s.st ≠ .busy → t.version.toNat = v.toNat % 256) ∧
      t = { s with version := t.version, resp := t.resp }) ∧
    (s.Sized → ∃ t, exec (.wrInLen v) s = .next t ∧ t.resp = some (.write false) ∧
      (s.st = .busy → t.inLen = s.inLen) ∧ (s.st ≠ .busy → t.inLen.toNat = min (v.toNat % 65536) s.cfg.inCap) ∧
      t = { s with inLen := t.inLen, resp := t.resp }) ∧
    (∃ t, exec (.wrIntEn v) s = .next t ∧ t.resp = some (.write false) ∧ (t.ie = true ↔ v.toNat % 2 = 1) ∧
      t = { s with ie := t.ie, resp := t.resp }) ∧
    (∀ r : BitVec 4, Instr.wf (.wrRegIgnored r v) = true →
      ∃ t, exec (.wrRegIgnored r v) s = .next t ∧ t.resp = some (.write false) ∧ t = { s with resp := t.resp })

/-- 46_host_commands.md R245: what each register reads, but for BIT_OFFSET while BUSY; a read changes nothing. -/
def Obligations.RegisterReadReturnsItsValue : Prop :=
  ∀ (s : State) (r : BitVec 4), s.cfg.legal = true → ¬ (r = 7#4 ∧ s.st = .busy) →
    ∃ d : Word, exec (.rdReg r) s = .next { s with resp := some (.read d false) } ∧ d.toNat = Pseudo.regRead (4 * r.toNat) s

/-- 10_state.md R37, 70_reset_and_hazards.md R312: BIT_OFFSET while BUSY is one of the offsets reached in this decode, no
smaller than the previous reading; only the model's own record of readings changes (log 8). -/
def Obligations.BitOffsetWhileBusyIsAMonotoneDraw : Prop :=
  ∀ s : State, s.st = .busy → s.readFloor ∈ s.reached →
    ∃ (t : State) (o : Half), exec (.rdReg 7#4) s = .next t ∧ t.resp = some (.read (o.setWidth 32) false) ∧
      o ∈ s.reached ∧ s.readFloor.toNat ≤ o.toNat ∧ t.readFloor = o ∧ t.readFloor ∈ t.reached ∧
      t = { s with resp := t.resp, readFloor := t.readFloor, draws := t.draws }

/-- 46_host_commands.md R246, 20_memory.md R64: a write to the IN window stores its bytes little-endian, those at or past
IN_CAP dropped, all of them while BUSY. -/
def Obligations.InWindowWriteStoresLittleEndian : Prop :=
  ∀ (s : State) (n : BusWidth) (j : BitVec 13) (v : Word), Instr.wf (.wrIn n j v) = true →
    ∃ t, exec (.wrIn n j v) s = .next t ∧ t.resp = some (.write false) ∧
      (∀ a, t.inByte a =
        if s.st ≠ .busy ∧ j.toNat ≤ a ∧ a < j.toNat + n.bytes ∧ a < s.cfg.inCap then BitVec.ofNat 8 (v.toNat / 2 ^ (8 * (a - j.toNat)))
        else s.inByte a) ∧
      t = { s with inMem := t.inMem, resp := t.resp }

/-- 46_host_commands.md R247: a read of the IN window in every state. -/
def Obligations.InWindowReadReturnsTheBytes : Prop :=
  ∀ (s : State) (n : BusWidth) (j : BitVec 13), Instr.wf (.rdIn n j) = true →
    ∃ d : Word, exec (.rdIn n j) s = .next { s with resp := some (.read d false) } ∧
      d.toNat = Pseudo.littleEndian (fun a => if a < s.cfg.inCap then s.inByte a else 0#8) n j.toNat

/-- 46_host_commands.md R248, R249: a read of the OUT window shows OUT_MEM only in DONE_OK and below OUT_PTR, and a write
there changes nothing. -/
def Obligations.OutWindowIsGatedAndReadOnly : Prop :=
  ∀ (s : State) (n : BusWidth) (j : BitVec 15), s.outPtr.toNat ≤ s.cfg.outCap →
    (Instr.wf (.rdOut n j) = true →
      ∃ d : Word, exec (.rdOut n j) s = .next { s with resp := some (.read d false) } ∧
        d.toNat = Pseudo.littleEndian (fun a => if s.st = .doneOk ∧ a < s.outPtr.toNat then s.outByte a else 0#8) n j.toNat) ∧
    (∀ v, Instr.wf (.wrOut n j v) = true → exec (.wrOut n j v) s = .next { s with resp := some (.write false) })

/-- 46_host_commands.md R250: every BUSERR row answers BUSERR and changes nothing. -/
def Obligations.BusErrorRowsChangeNothing : Prop :=
  ∀ (row : HostAccess → Instr) (acc : HostAccess) (s : State),
    row ∈ [Instr.busErrMisalignedA1, Instr.busErrMisalignedA2, Instr.busErrMisalignedA3, Instr.busErrReg8,
      Instr.busErrUnmapped0040, Instr.busErrUnmapped0080, Instr.busErrUnmapped0100, Instr.busErrUnmapped0200,
      Instr.busErrUnmapped0400, Instr.busErrUnmapped0800, Instr.busErrUnmapped1000, Instr.busErrUnmapped4000] →
    (row acc).wf = true →
    exec (row acc) s = .next { s with resp := some (busErrResponse acc) }

/-- 46_host_commands.md R250: an access returns BUSERR in exactly the listed cases, and then it changes no state. -/
def Obligations.BusErrorInExactlyTheListedCases : Prop :=
  ∀ (acc : HostAccess) (s : State),
    ∃ t, exec (decodeAccess acc) s = .next t ∧
      (t.resp = some (busErrResponse acc) ↔
        (acc.busWidth = .w32 ∧ acc.addr.toNat % 4 ≠ 0) ∨ (acc.busWidth = .w8 ∧ acc.addr.toNat ≤ 0x3F) ∨
        (0x40 ≤ acc.addr.toNat ∧ acc.addr.toNat ≤ 0x1FFF) ∨ (0x4000 ≤ acc.addr.toNat ∧ acc.addr.toNat ≤ 0x7FFF)) ∧
      (t.resp = some (busErrResponse acc) → t = { s with resp := t.resp })

/-! ## The spec's pseudocode -/

/-- 41_dispatcher.md R140 to R148, R151, 42_numeric.md R170 to R176, 43_alphanumeric.md R191 to R193, 44_byte.md R211:
decoding an element and running its instruction is CoreStep of the spec. -/
def Obligations.CoreStepIsTheSpecsPseudocode : Prop :=
  ∀ s : State, s.coreNext → ¬ Pseudo.Stuck s →
    step s = .next (Pseudo.coreStep s.popped)

/-- 20_memory.md R72: decoding a read and running its row is MemRead of the spec, but for BIT_OFFSET while BUSY. -/
def Obligations.HostReadIsTheSpecsMemRead : Prop :=
  ∀ (s : State) (n : BusWidth) (a : Half), s.cfg.legal = true → ¬ (s.st = .busy ∧ n = .w32 ∧ a = 0x1C#16) →
    exec (decodeAccess (.read n a)) s =
      .next { s with resp := some (.read (BitVec.ofNat 32 (Pseudo.memRead a n s).1) (Pseudo.memRead a n s).2) }

/-- 20_memory.md R73: decoding a write and running its row is MemWrite of the spec. -/
def Obligations.HostWriteIsTheSpecsMemWrite : Prop :=
  ∀ (s : State) (n : BusWidth) (a : Half) (v : Word),
    exec (decodeAccess (.write n a v)) s =
      .next { (Pseudo.memWrite a n v s).1 with resp := some (.write (Pseudo.memWrite a n v s).2) }

/-! ## Rules of the whole machine -/

/-- The state after reset is good, for every legal choice of the parameters. -/
def Obligations.ResetIsGood : Prop := ∀ cfg : Params, cfg.legal = true → (State.resetOf cfg).Good

/-- Every step from a good state gives a good state: the buffers keep their form, OFFSET stays inside the stream, PHASE and
MODE stay legal, and OutputOverflow never occurs (45_accumulator.md R225). -/
def Obligations.StepKeepsGood : Prop := ∀ s t : State, s.Good → step s = .next t → t.Good

/-- From a good state every step has a next state: no fault, no refusal. -/
def Obligations.GoodStateNeverStops : Prop := ∀ s : State, s.Good → ∃ t, step s = .next t

/-- 10_state.md R21: the values of STATE and its transitions; no other transition exists. -/
def Obligations.StateChangesOnlyAsListed : Prop :=
  (CoreState.idle.bits = 0#2 ∧ CoreState.busy.bits = 1#2 ∧ CoreState.doneOk.bits = 2#2 ∧ CoreState.doneErr.bits = 3#2) ∧
  ∀ s t : State, step s = .next t →
    t.st = s.st ∨
    (s.st = .busy ∧ s.coreNext ∧ (t.st = .doneOk ∨ t.st = .doneErr)) ∨
    (s.st ≠ .busy ∧ t.st = .busy ∧
      ∃ v rest, s.pending = .bus (.write .w32 0x0000#16 v) :: rest ∧ v.getLsbD 0 = true ∧ v.getLsbD 1 = false) ∨
    (t.st = .idle ∧
      ((∃ v rest, s.pending = .bus (.write .w32 0x0000#16 v) :: rest ∧ v.getLsbD 1 = true) ∨ ∃ rest, s.pending = .rst :: rest))

/-- 10_state.md R46: a core step writes none of the host's inputs, and a host access writes neither MODE nor OUT_MEM, and
the core's other registers only as START and CLEAR. -/
def Obligations.CoreAndHostWriteOnlyTheirOwn : Prop :=
  ∀ s t : State, step s = .next t →
    (s.coreNext → t.version = s.version ∧ t.inLen = s.inLen ∧ t.ie = s.ie ∧ t.cfg = s.cfg ∧ t.resp = s.resp ∧
      ∀ a, t.inByte a = s.inByte a) ∧
    (∀ acc rest, s.pending = .bus acc :: rest →
      t.mode = s.mode ∧ t.cfg = s.cfg ∧ (∀ a, t.outByte a = s.outByte a) ∧
      ((∀ v, acc = .write .w32 0x0000#16 v → v.getLsbD 1 = false ∧ (v.getLsbD 0 = true → s.st = .busy)) →
        t.st = s.st ∧ t.offset = s.offset ∧ t.phase = s.phase ∧ t.rem = s.rem ∧ t.outPtr = s.outPtr ∧ t.errCode = s.errCode ∧ t.errInfo = s.errInfo))

/-- 20_memory.md R76, 70_reset_and_hazards.md R304: while BUSY no event but rst changes IN_MEM, IN_LEN or VERSION, and the
dropped writes get no bus error. -/
def Obligations.InputsAreFrozenWhileBusy : Prop :=
  ∀ s t : State, s.st = .busy → step s = .next t → (∀ rest, s.pending ≠ .rst :: rest) →
    t.inLen = s.inLen ∧ t.version = s.version ∧ (∀ a, t.inByte a = s.inByte a) ∧
    (∀ v rest, s.pending = .bus (.write .w32 0x0008#16 v) :: rest ∨ s.pending = .bus (.write .w32 0x000C#16 v) :: rest →
      t.resp = some (.write false)) ∧
    (∀ n a v rest, s.pending = .bus (.write n a v) :: rest → 0x2000 ≤ a.toNat → a.toNat ≤ 0x3FFF → (n = .w32 → a.toNat % 4 = 0) →
      t.resp = some (.write false))

/-- 20_memory.md R67, R72: no host read, in any window, mapped or not, changes QRPD's state. -/
def Obligations.HostReadsHaveNoSideEffect : Prop :=
  ∀ (s : State) (n : BusWidth) (a : Half),
    ∃ t, exec (decodeAccess (.read n a)) s = .next t ∧
      t = { s with resp := t.resp, readFloor := t.readFloor, draws := t.draws } ∧
      (¬ (s.st = .busy ∧ a = 0x1C#16 ∧ n = .w32) → t.readFloor = s.readFloor ∧ t.draws = s.draws)

/-- 45_accumulator.md R224, 20_memory.md R62: outside DONE_OK nothing the host can do shows it anything of OUT_MEM: states
that differ only there answer alike and go on differing only there. -/
def Obligations.OutMemIsHiddenOutsideDoneOk : Prop :=
  ∀ (s t : State) (acc : HostAccess), SameButOutMem s t → s.st ≠ .doneOk →
    ∃ s' t', exec (decodeAccess acc) s = .next s' ∧ exec (decodeAccess acc) t = .next t' ∧ s'.resp = t'.resp ∧ SameButOutMem s' t'

/-- 40_bit_cursor.md R125: the bytes of IN_MEM at or above IN_LEN have no effect on a core step. -/
def Obligations.BytesPastInLenHaveNoEffect : Prop :=
  ∀ s t s' : State, SameBelowInLen s t → s.coreNext → step s = .next s' → ∃ t', step t = .next t' ∧ SameBelowInLen s' t'

/-- 10_state.md R22, 40_bit_cursor.md R126, 41_dispatcher.md R152: a core step never moves OFFSET back nor past the stream,
and one that does not end the decode moves it by at least 4, or 8 for a length field. -/
def Obligations.CoreStepConsumesTheStream : Prop :=
  ∀ s t : State, s.Good → s.coreNext → step s = .next t →
    s.offset.toNat ≤ t.offset.toNat ∧ t.offset.toNat ≤ 8 * s.inLen.toNat ∧
    (t.st = .busy → s.offset.toNat + 4 ≤ t.offset.toNat) ∧
    (t.st = .busy → s.phase = .segLen → s.offset.toNat + 8 ≤ t.offset.toNat)

/-- 41_dispatcher.md R152: a decode that the host leaves alone ends within 2·IN_LEN + 1 core steps. -/
def Obligations.DecodeEndsWithinTheBound : Prop :=
  ∀ s : State, s.Good → s.st = .busy → s.pending = [] →
    ∃ (k : Nat) (t : State), k ≤ 2 * s.inLen.toNat + 1 ∧ Host.Core.run Sys2Proof.core k s = .next t ∧
      (t.st = .doneOk ∨ t.st = .doneErr)

/-- 20_memory.md R75, R79: in DONE_OK and DONE_ERR the result stays until START, CLEAR or rst. -/
def Obligations.ResultStaysUntilTheNextCommand : Prop :=
  ∀ s t : State, (s.st = .doneOk ∨ s.st = .doneErr) → step s = .next t →
    (∀ rest, s.pending ≠ .rst :: rest) → (∀ v rest, s.pending = .bus (.write .w32 0x0000#16 v) :: rest → v.toNat % 4 = 0) →
    t.st = s.st ∧ t.errCode = s.errCode ∧ t.errInfo = s.errInfo ∧ t.offset = s.offset ∧ t.outPtr = s.outPtr ∧
    ∀ j, t.outWindowByte j = s.outWindowByte j

/-- 60_exceptions.md R283: the interrupt line: it goes high when a decode ends with IE = 1, falls on START, CLEAR or IE
written 0, and reads as STATUS.IRQ. -/
def Obligations.InterruptLineFollowsCompletion : Prop :=
  (∀ s : State, s.irq = true ↔ s.ie = true ∧ (s.st = .doneOk ∨ s.st = .doneErr)) ∧
  (∀ s t : State, s.coreNext → step s = .next t → t.st ≠ .busy → s.irq = false ∧ t.irq = s.ie) ∧
  (∀ s t : State, ∀ hi, exec (.start hi) s = .next t → t.irq = false) ∧
  (∀ s t : State, ∀ lo hi, exec (.clear lo hi) s = .next t → t.irq = false) ∧
  (∀ s t : State, ∀ v : Word, v.toNat % 2 = 0 → exec (.wrIntEn v) s = .next t → t.irq = false) ∧
  (∀ s t : State, exec (.rdReg 1#4) s = .next t → ∃ d : Word, t.resp = some (.read d false) ∧ d.getLsbD 2 = s.irq)

/-- 60_exceptions.md R276, R270: every core step that ends in DONE_ERR wrote an error code of the table from 1 to 6 and
kept PHASE, MODE, REM and OUT_PTR, the host's inputs and both buffers. -/
def Obligations.RaiseKeepsAllButTheError : Prop :=
  ∀ s t : State, s.coreNext → step s = .next t → t.st = .doneErr →
    1 ≤ t.errCode.bits.toNat ∧ t.errCode.bits.toNat ≤ 6 ∧
    t.phase = s.phase ∧ t.mode = s.mode ∧ t.rem = s.rem ∧ t.outPtr = s.outPtr ∧
    (∀ a, t.outByte a = s.outByte a) ∧ (∀ a, t.inByte a = s.inByte a) ∧
    t = { s.popped with st := t.st, errCode := t.errCode, errInfo := t.errInfo, offset := t.offset, reached := t.reached }

/-- 20_memory.md R79: a core step from states that agree on what a decode reads gives states that agree on it. -/
def Obligations.CoreStepKeepsAgreement : Prop :=
  ∀ s t s' : State, SameDecode s t → s.coreNext → t.coreNext → step s = .next s' → ∃ t', step t = .next t' ∧ SameDecode s' t'

/-- 70_reset_and_hazards.md R303, 20_memory.md R79, 46_host_commands.md R251: a decode depends on nothing but its inputs. From any two
states that are not BUSY and agree on the parameters, VERSION, IN_LEN and the bytes below IN_LEN, START leads after any
number of steps to the same STATE, error, OFFSET and visible output. -/
def Obligations.DecodeDependsOnlyOnItsInputs : Prop :=
  ∀ (s t : State) (hi hi' : BitVec 30) (k : Nat) (s' : State),
    s.cfg.legal = true → t.cfg = s.cfg → s.st ≠ .busy → t.st ≠ .busy →
    t.version = s.version → t.inLen = s.inLen → (∀ j < s.inLen.toNat, t.inByte j = s.inByte j) →
    s.pending = [.bus (.write .w32 0x0000#16 (hi ++ 0b01#2))] → t.pending = [.bus (.write .w32 0x0000#16 (hi' ++ 0b01#2))] →
    Host.Core.run Sys2Proof.core (k + 1) s = .next s' →
    ∃ t', Host.Core.run Sys2Proof.core (k + 1) t = .next t' ∧
      State.st t' = State.st s' ∧ State.errCode t' = State.errCode s' ∧ State.errInfo t' = State.errInfo s' ∧
      State.offset t' = State.offset s' ∧ State.outPtr t' = State.outPtr s' ∧
      ∀ j, State.outWindowByte t' j = State.outWindowByte s' j
end

