-- ==== Sys2Proof/Laws/State.lean ====
section
/-! SUPPORT. One lemma per field of State for each named update: what the field is after it. -/

namespace Sys2Proof.Machine

section Advance

variable (n : Nat) (s : State)

@[simp] theorem State.advance_cfg : (s.advance n).cfg = s.cfg := rfl
@[simp] theorem State.advance_st : (s.advance n).st = s.st := rfl
@[simp] theorem State.advance_offset : (s.advance n).offset = s.offset + BitVec.ofNat 16 n := rfl
@[simp] theorem State.advance_phase : (s.advance n).phase = s.phase := rfl
@[simp] theorem State.advance_mode : (s.advance n).mode = s.mode := rfl
@[simp] theorem State.advance_rem : (s.advance n).rem = s.rem := rfl
@[simp] theorem State.advance_outPtr : (s.advance n).outPtr = s.outPtr := rfl
@[simp] theorem State.advance_errCode : (s.advance n).errCode = s.errCode := rfl
@[simp] theorem State.advance_errInfo : (s.advance n).errInfo = s.errInfo := rfl
@[simp] theorem State.advance_version : (s.advance n).version = s.version := rfl
@[simp] theorem State.advance_inLen : (s.advance n).inLen = s.inLen := rfl
@[simp] theorem State.advance_ie : (s.advance n).ie = s.ie := rfl
@[simp] theorem State.advance_inMem : (s.advance n).inMem = s.inMem := rfl
@[simp] theorem State.advance_outMem : (s.advance n).outMem = s.outMem := rfl
@[simp] theorem State.advance_reached : (s.advance n).reached = (s.offset + BitVec.ofNat 16 n) :: s.reached := rfl
@[simp] theorem State.advance_readFloor : (s.advance n).readFloor = s.readFloor := rfl
@[simp] theorem State.advance_draws : (s.advance n).draws = s.draws := rfl
@[simp] theorem State.advance_past : (s.advance n).past = s.past := rfl
@[simp] theorem State.advance_resp : (s.advance n).resp = s.resp := rfl
@[simp] theorem State.advance_pending : (s.advance n).pending = s.pending := rfl

end Advance

section Raise

variable (e : ErrCode) (i : Half) (s : State)

@[simp] theorem State.raise_cfg : (s.raise e i).cfg = s.cfg := rfl
@[simp] theorem State.raise_st : (s.raise e i).st = .doneErr := rfl
@[simp] theorem State.raise_offset : (s.raise e i).offset = s.offset := rfl
@[simp] theorem State.raise_phase : (s.raise e i).phase = s.phase := rfl
@[simp] theorem State.raise_mode : (s.raise e i).mode = s.mode := rfl
@[simp] theorem State.raise_rem : (s.raise e i).rem = s.rem := rfl
@[simp] theorem State.raise_outPtr : (s.raise e i).outPtr = s.outPtr := rfl
@[simp] theorem State.raise_errCode : (s.raise e i).errCode = e := rfl
@[simp] theorem State.raise_errInfo : (s.raise e i).errInfo = i := rfl
@[simp] theorem State.raise_version : (s.raise e i).version = s.version := rfl
@[simp] theorem State.raise_inLen : (s.raise e i).inLen = s.inLen := rfl
@[simp] theorem State.raise_ie : (s.raise e i).ie = s.ie := rfl
@[simp] theorem State.raise_inMem : (s.raise e i).inMem = s.inMem := rfl
@[simp] theorem State.raise_outMem : (s.raise e i).outMem = s.outMem := rfl
@[simp] theorem State.raise_reached : (s.raise e i).reached = s.reached := rfl
@[simp] theorem State.raise_readFloor : (s.raise e i).readFloor = s.readFloor := rfl
@[simp] theorem State.raise_draws : (s.raise e i).draws = s.draws := rfl
@[simp] theorem State.raise_past : (s.raise e i).past = s.past := rfl
@[simp] theorem State.raise_resp : (s.raise e i).resp = s.resp := rfl
@[simp] theorem State.raise_pending : (s.raise e i).pending = s.pending := rfl

end Raise

section FinishOk

variable (s : State)

@[simp] theorem State.finishOk_cfg : (s.finishOk).cfg = s.cfg := rfl
@[simp] theorem State.finishOk_st : (s.finishOk).st = .doneOk := rfl
@[simp] theorem State.finishOk_offset : (s.finishOk).offset = s.offset := rfl
@[simp] theorem State.finishOk_phase : (s.finishOk).phase = s.phase := rfl
@[simp] theorem State.finishOk_mode : (s.finishOk).mode = s.mode := rfl
@[simp] theorem State.finishOk_rem : (s.finishOk).rem = s.rem := rfl
@[simp] theorem State.finishOk_outPtr : (s.finishOk).outPtr = s.outPtr := rfl
@[simp] theorem State.finishOk_errCode : (s.finishOk).errCode = s.errCode := rfl
@[simp] theorem State.finishOk_errInfo : (s.finishOk).errInfo = s.errInfo := rfl
@[simp] theorem State.finishOk_version : (s.finishOk).version = s.version := rfl
@[simp] theorem State.finishOk_inLen : (s.finishOk).inLen = s.inLen := rfl
@[simp] theorem State.finishOk_ie : (s.finishOk).ie = s.ie := rfl
@[simp] theorem State.finishOk_inMem : (s.finishOk).inMem = s.inMem := rfl
@[simp] theorem State.finishOk_outMem : (s.finishOk).outMem = s.outMem := rfl
@[simp] theorem State.finishOk_reached : (s.finishOk).reached = s.reached := rfl
@[simp] theorem State.finishOk_readFloor : (s.finishOk).readFloor = s.readFloor := rfl
@[simp] theorem State.finishOk_draws : (s.finishOk).draws = s.draws := rfl
@[simp] theorem State.finishOk_past : (s.finishOk).past = s.past := rfl
@[simp] theorem State.finishOk_resp : (s.finishOk).resp = s.resp := rfl
@[simp] theorem State.finishOk_pending : (s.finishOk).pending = s.pending := rfl

end FinishOk

section Started

variable (s : State)

@[simp] theorem State.started_cfg : (s.started).cfg = s.cfg := rfl
@[simp] theorem State.started_st : (s.started).st = .busy := rfl
@[simp] theorem State.started_offset : (s.started).offset = 0#16 := rfl
@[simp] theorem State.started_phase : (s.started).phase = .dispatch := rfl
@[simp] theorem State.started_mode : (s.started).mode = s.mode := rfl
@[simp] theorem State.started_rem : (s.started).rem = 0#16 := rfl
@[simp] theorem State.started_outPtr : (s.started).outPtr = 0#16 := rfl
@[simp] theorem State.started_errCode : (s.started).errCode = .none := rfl
@[simp] theorem State.started_errInfo : (s.started).errInfo = 0#16 := rfl
@[simp] theorem State.started_version : (s.started).version = s.version := rfl
@[simp] theorem State.started_inLen : (s.started).inLen = s.inLen := rfl
@[simp] theorem State.started_ie : (s.started).ie = s.ie := rfl
@[simp] theorem State.started_inMem : (s.started).inMem = s.inMem := rfl
@[simp] theorem State.started_outMem : (s.started).outMem = s.outMem := rfl
@[simp] theorem State.started_reached : (s.started).reached = [0#16] := rfl
@[simp] theorem State.started_readFloor : (s.started).readFloor = 0#16 := rfl
@[simp] theorem State.started_draws : (s.started).draws = s.draws := rfl
@[simp] theorem State.started_past : (s.started).past = s.past := rfl
@[simp] theorem State.started_resp : (s.started).resp = s.resp := rfl
@[simp] theorem State.started_pending : (s.started).pending = s.pending := rfl

end Started

section ClearCommand

variable (s : State)

@[simp] theorem State.clearCommand_cfg : (s.clearCommand).cfg = s.cfg := rfl
@[simp] theorem State.clearCommand_st : (s.clearCommand).st = .idle := rfl
@[simp] theorem State.clearCommand_offset : (s.clearCommand).offset = 0#16 := rfl
@[simp] theorem State.clearCommand_phase : (s.clearCommand).phase = .dispatch := rfl
@[simp] theorem State.clearCommand_mode : (s.clearCommand).mode = s.mode := rfl
@[simp] theorem State.clearCommand_rem : (s.clearCommand).rem = 0#16 := rfl
@[simp] theorem State.clearCommand_outPtr : (s.clearCommand).outPtr = 0#16 := rfl
@[simp] theorem State.clearCommand_errCode : (s.clearCommand).errCode = .none := rfl
@[simp] theorem State.clearCommand_errInfo : (s.clearCommand).errInfo = 0#16 := rfl
@[simp] theorem State.clearCommand_version : (s.clearCommand).version = s.version := rfl
@[simp] theorem State.clearCommand_inLen : (s.clearCommand).inLen = s.inLen := rfl
@[simp] theorem State.clearCommand_ie : (s.clearCommand).ie = s.ie := rfl
@[simp] theorem State.clearCommand_inMem : (s.clearCommand).inMem = s.inMem := rfl
@[simp] theorem State.clearCommand_outMem : (s.clearCommand).outMem = s.outMem := rfl
@[simp] theorem State.clearCommand_reached : (s.clearCommand).reached = [0#16] := rfl
@[simp] theorem State.clearCommand_readFloor : (s.clearCommand).readFloor = 0#16 := rfl
@[simp] theorem State.clearCommand_draws : (s.clearCommand).draws = s.draws := rfl
@[simp] theorem State.clearCommand_past : (s.clearCommand).past = s.past := rfl
@[simp] theorem State.clearCommand_resp : (s.clearCommand).resp = s.resp := rfl
@[simp] theorem State.clearCommand_pending : (s.clearCommand).pending = s.pending := rfl

end ClearCommand

section RstOp

variable (s : State)

@[simp] theorem State.rstOp_cfg : (s.rstOp).cfg = s.cfg := rfl
@[simp] theorem State.rstOp_st : (s.rstOp).st = .idle := rfl
@[simp] theorem State.rstOp_offset : (s.rstOp).offset = 0#16 := rfl
@[simp] theorem State.rstOp_phase : (s.rstOp).phase = .dispatch := rfl
@[simp] theorem State.rstOp_mode : (s.rstOp).mode = .num := rfl
@[simp] theorem State.rstOp_rem : (s.rstOp).rem = 0#16 := rfl
@[simp] theorem State.rstOp_outPtr : (s.rstOp).outPtr = 0#16 := rfl
@[simp] theorem State.rstOp_errCode : (s.rstOp).errCode = .none := rfl
@[simp] theorem State.rstOp_errInfo : (s.rstOp).errInfo = 0#16 := rfl
@[simp] theorem State.rstOp_version : (s.rstOp).version = 0#8 := rfl
@[simp] theorem State.rstOp_inLen : (s.rstOp).inLen = 0#16 := rfl
@[simp] theorem State.rstOp_ie : (s.rstOp).ie = false := rfl
@[simp] theorem State.rstOp_inMem : (s.rstOp).inMem = [] := rfl
@[simp] theorem State.rstOp_outMem : (s.rstOp).outMem = [] := rfl
@[simp] theorem State.rstOp_reached : (s.rstOp).reached = [0#16] := rfl
@[simp] theorem State.rstOp_readFloor : (s.rstOp).readFloor = 0#16 := rfl
@[simp] theorem State.rstOp_draws : (s.rstOp).draws = s.draws := rfl
@[simp] theorem State.rstOp_past : (s.rstOp).past = (s.inMem, s.outMem) :: s.past := rfl
@[simp] theorem State.rstOp_resp : (s.rstOp).resp = none := rfl
@[simp] theorem State.rstOp_pending : (s.rstOp).pending = s.pending := rfl

end RstOp

section EnterSegment

variable (m : Mode) (s : State)

@[simp] theorem State.enterSegment_cfg : (s.enterSegment m).cfg = s.cfg := rfl
@[simp] theorem State.enterSegment_st : (s.enterSegment m).st = s.st := rfl
@[simp] theorem State.enterSegment_offset : (s.enterSegment m).offset = s.offset := rfl
@[simp] theorem State.enterSegment_phase : (s.enterSegment m).phase = .segLen := rfl
@[simp] theorem State.enterSegment_mode : (s.enterSegment m).mode = m := rfl
@[simp] theorem State.enterSegment_rem : (s.enterSegment m).rem = s.rem := rfl
@[simp] theorem State.enterSegment_outPtr : (s.enterSegment m).outPtr = s.outPtr := rfl
@[simp] theorem State.enterSegment_errCode : (s.enterSegment m).errCode = s.errCode := rfl
@[simp] theorem State.enterSegment_errInfo : (s.enterSegment m).errInfo = s.errInfo := rfl
@[simp] theorem State.enterSegment_version : (s.enterSegment m).version = s.version := rfl
@[simp] theorem State.enterSegment_inLen : (s.enterSegment m).inLen = s.inLen := rfl
@[simp] theorem State.enterSegment_ie : (s.enterSegment m).ie = s.ie := rfl
@[simp] theorem State.enterSegment_inMem : (s.enterSegment m).inMem = s.inMem := rfl
@[simp] theorem State.enterSegment_outMem : (s.enterSegment m).outMem = s.outMem := rfl
@[simp] theorem State.enterSegment_reached : (s.enterSegment m).reached = s.reached := rfl
@[simp] theorem State.enterSegment_readFloor : (s.enterSegment m).readFloor = s.readFloor := rfl
@[simp] theorem State.enterSegment_draws : (s.enterSegment m).draws = s.draws := rfl
@[simp] theorem State.enterSegment_past : (s.enterSegment m).past = s.past := rfl
@[simp] theorem State.enterSegment_resp : (s.enterSegment m).resp = s.resp := rfl
@[simp] theorem State.enterSegment_pending : (s.enterSegment m).pending = s.pending := rfl

end EnterSegment

section LoadLength

variable (l : Half) (s : State)

@[simp] theorem State.loadLength_cfg : (s.loadLength l).cfg = s.cfg := rfl
@[simp] theorem State.loadLength_st : (s.loadLength l).st = s.st := rfl
@[simp] theorem State.loadLength_offset : (s.loadLength l).offset = s.offset := rfl
@[simp] theorem State.loadLength_phase : (s.loadLength l).phase = (if l = 0#16 then .dispatch else .segBody) := rfl
@[simp] theorem State.loadLength_mode : (s.loadLength l).mode = s.mode := rfl
@[simp] theorem State.loadLength_rem : (s.loadLength l).rem = l := rfl
@[simp] theorem State.loadLength_outPtr : (s.loadLength l).outPtr = s.outPtr := rfl
@[simp] theorem State.loadLength_errCode : (s.loadLength l).errCode = s.errCode := rfl
@[simp] theorem State.loadLength_errInfo : (s.loadLength l).errInfo = s.errInfo := rfl
@[simp] theorem State.loadLength_version : (s.loadLength l).version = s.version := rfl
@[simp] theorem State.loadLength_inLen : (s.loadLength l).inLen = s.inLen := rfl
@[simp] theorem State.loadLength_ie : (s.loadLength l).ie = s.ie := rfl
@[simp] theorem State.loadLength_inMem : (s.loadLength l).inMem = s.inMem := rfl
@[simp] theorem State.loadLength_outMem : (s.loadLength l).outMem = s.outMem := rfl
@[simp] theorem State.loadLength_reached : (s.loadLength l).reached = s.reached := rfl
@[simp] theorem State.loadLength_readFloor : (s.loadLength l).readFloor = s.readFloor := rfl
@[simp] theorem State.loadLength_draws : (s.loadLength l).draws = s.draws := rfl
@[simp] theorem State.loadLength_past : (s.loadLength l).past = s.past := rfl
@[simp] theorem State.loadLength_resp : (s.loadLength l).resp = s.resp := rfl
@[simp] theorem State.loadLength_pending : (s.loadLength l).pending = s.pending := rfl

end LoadLength

section Consume

variable (k : Half) (s : State)

@[simp] theorem State.consume_cfg : (s.consume k).cfg = s.cfg := rfl
@[simp] theorem State.consume_st : (s.consume k).st = s.st := rfl
@[simp] theorem State.consume_offset : (s.consume k).offset = s.offset := rfl
@[simp] theorem State.consume_phase : (s.consume k).phase = (if s.rem - k = 0#16 then .dispatch else s.phase) := rfl
@[simp] theorem State.consume_mode : (s.consume k).mode = s.mode := rfl
@[simp] theorem State.consume_rem : (s.consume k).rem = s.rem - k := rfl
@[simp] theorem State.consume_outPtr : (s.consume k).outPtr = s.outPtr := rfl
@[simp] theorem State.consume_errCode : (s.consume k).errCode = s.errCode := rfl
@[simp] theorem State.consume_errInfo : (s.consume k).errInfo = s.errInfo := rfl
@[simp] theorem State.consume_version : (s.consume k).version = s.version := rfl
@[simp] theorem State.consume_inLen : (s.consume k).inLen = s.inLen := rfl
@[simp] theorem State.consume_ie : (s.consume k).ie = s.ie := rfl
@[simp] theorem State.consume_inMem : (s.consume k).inMem = s.inMem := rfl
@[simp] theorem State.consume_outMem : (s.consume k).outMem = s.outMem := rfl
@[simp] theorem State.consume_reached : (s.consume k).reached = s.reached := rfl
@[simp] theorem State.consume_readFloor : (s.consume k).readFloor = s.readFloor := rfl
@[simp] theorem State.consume_draws : (s.consume k).draws = s.draws := rfl
@[simp] theorem State.consume_past : (s.consume k).past = s.past := rfl
@[simp] theorem State.consume_resp : (s.consume k).resp = s.resp := rfl
@[simp] theorem State.consume_pending : (s.consume k).pending = s.pending := rfl

end Consume

section EndSegment

variable (s : State)

@[simp] theorem State.endSegment_cfg : (s.endSegment).cfg = s.cfg := rfl
@[simp] theorem State.endSegment_st : (s.endSegment).st = s.st := rfl
@[simp] theorem State.endSegment_offset : (s.endSegment).offset = s.offset := rfl
@[simp] theorem State.endSegment_phase : (s.endSegment).phase = .dispatch := rfl
@[simp] theorem State.endSegment_mode : (s.endSegment).mode = s.mode := rfl
@[simp] theorem State.endSegment_rem : (s.endSegment).rem = 0#16 := rfl
@[simp] theorem State.endSegment_outPtr : (s.endSegment).outPtr = s.outPtr := rfl
@[simp] theorem State.endSegment_errCode : (s.endSegment).errCode = s.errCode := rfl
@[simp] theorem State.endSegment_errInfo : (s.endSegment).errInfo = s.errInfo := rfl
@[simp] theorem State.endSegment_version : (s.endSegment).version = s.version := rfl
@[simp] theorem State.endSegment_inLen : (s.endSegment).inLen = s.inLen := rfl
@[simp] theorem State.endSegment_ie : (s.endSegment).ie = s.ie := rfl
@[simp] theorem State.endSegment_inMem : (s.endSegment).inMem = s.inMem := rfl
@[simp] theorem State.endSegment_outMem : (s.endSegment).outMem = s.outMem := rfl
@[simp] theorem State.endSegment_reached : (s.endSegment).reached = s.reached := rfl
@[simp] theorem State.endSegment_readFloor : (s.endSegment).readFloor = s.readFloor := rfl
@[simp] theorem State.endSegment_draws : (s.endSegment).draws = s.draws := rfl
@[simp] theorem State.endSegment_past : (s.endSegment).past = s.past := rfl
@[simp] theorem State.endSegment_resp : (s.endSegment).resp = s.resp := rfl
@[simp] theorem State.endSegment_pending : (s.endSegment).pending = s.pending := rfl

end EndSegment

section Appended

variable (bs : List Byte) (s : State)

@[simp] theorem State.appended_cfg : (s.appended bs).cfg = s.cfg := rfl
@[simp] theorem State.appended_st : (s.appended bs).st = s.st := rfl
@[simp] theorem State.appended_offset : (s.appended bs).offset = s.offset := rfl
@[simp] theorem State.appended_phase : (s.appended bs).phase = s.phase := rfl
@[simp] theorem State.appended_mode : (s.appended bs).mode = s.mode := rfl
@[simp] theorem State.appended_rem : (s.appended bs).rem = s.rem := rfl
@[simp] theorem State.appended_outPtr : (s.appended bs).outPtr = s.outPtr + BitVec.ofNat 16 bs.length := rfl
@[simp] theorem State.appended_errCode : (s.appended bs).errCode = s.errCode := rfl
@[simp] theorem State.appended_errInfo : (s.appended bs).errInfo = s.errInfo := rfl
@[simp] theorem State.appended_version : (s.appended bs).version = s.version := rfl
@[simp] theorem State.appended_inLen : (s.appended bs).inLen = s.inLen := rfl
@[simp] theorem State.appended_ie : (s.appended bs).ie = s.ie := rfl
@[simp] theorem State.appended_inMem : (s.appended bs).inMem = s.inMem := rfl
@[simp] theorem State.appended_outMem : (s.appended bs).outMem = Memory.putAll s.outMem s.outPtr.toNat bs := rfl
@[simp] theorem State.appended_reached : (s.appended bs).reached = s.reached := rfl
@[simp] theorem State.appended_readFloor : (s.appended bs).readFloor = s.readFloor := rfl
@[simp] theorem State.appended_draws : (s.appended bs).draws = s.draws := rfl
@[simp] theorem State.appended_past : (s.appended bs).past = s.past := rfl
@[simp] theorem State.appended_resp : (s.appended bs).resp = s.resp := rfl
@[simp] theorem State.appended_pending : (s.appended bs).pending = s.pending := rfl

end Appended

section Respond

variable (r : Response) (s : State)

@[simp] theorem State.respond_cfg : (s.respond r).cfg = s.cfg := rfl
@[simp] theorem State.respond_st : (s.respond r).st = s.st := rfl
@[simp] theorem State.respond_offset : (s.respond r).offset = s.offset := rfl
@[simp] theorem State.respond_phase : (s.respond r).phase = s.phase := rfl
@[simp] theorem State.respond_mode : (s.respond r).mode = s.mode := rfl
@[simp] theorem State.respond_rem : (s.respond r).rem = s.rem := rfl
@[simp] theorem State.respond_outPtr : (s.respond r).outPtr = s.outPtr := rfl
@[simp] theorem State.respond_errCode : (s.respond r).errCode = s.errCode := rfl
@[simp] theorem State.respond_errInfo : (s.respond r).errInfo = s.errInfo := rfl
@[simp] theorem State.respond_version : (s.respond r).version = s.version := rfl
@[simp] theorem State.respond_inLen : (s.respond r).inLen = s.inLen := rfl
@[simp] theorem State.respond_ie : (s.respond r).ie = s.ie := rfl
@[simp] theorem State.respond_inMem : (s.respond r).inMem = s.inMem := rfl
@[simp] theorem State.respond_outMem : (s.respond r).outMem = s.outMem := rfl
@[simp] theorem State.respond_reached : (s.respond r).reached = s.reached := rfl
@[simp] theorem State.respond_readFloor : (s.respond r).readFloor = s.readFloor := rfl
@[simp] theorem State.respond_draws : (s.respond r).draws = s.draws := rfl
@[simp] theorem State.respond_past : (s.respond r).past = s.past := rfl
@[simp] theorem State.respond_resp : (s.respond r).resp = some r := rfl
@[simp] theorem State.respond_pending : (s.respond r).pending = s.pending := rfl

end Respond

section SetIe

variable (b : Bool) (s : State)

@[simp] theorem State.setIe_cfg : (s.setIe b).cfg = s.cfg := rfl
@[simp] theorem State.setIe_st : (s.setIe b).st = s.st := rfl
@[simp] theorem State.setIe_offset : (s.setIe b).offset = s.offset := rfl
@[simp] theorem State.setIe_phase : (s.setIe b).phase = s.phase := rfl
@[simp] theorem State.setIe_mode : (s.setIe b).mode = s.mode := rfl
@[simp] theorem State.setIe_rem : (s.setIe b).rem = s.rem := rfl
@[simp] theorem State.setIe_outPtr : (s.setIe b).outPtr = s.outPtr := rfl
@[simp] theorem State.setIe_errCode : (s.setIe b).errCode = s.errCode := rfl
@[simp] theorem State.setIe_errInfo : (s.setIe b).errInfo = s.errInfo := rfl
@[simp] theorem State.setIe_version : (s.setIe b).version = s.version := rfl
@[simp] theorem State.setIe_inLen : (s.setIe b).inLen = s.inLen := rfl
@[simp] theorem State.setIe_ie : (s.setIe b).ie = b := rfl
@[simp] theorem State.setIe_inMem : (s.setIe b).inMem = s.inMem := rfl
@[simp] theorem State.setIe_outMem : (s.setIe b).outMem = s.outMem := rfl
@[simp] theorem State.setIe_reached : (s.setIe b).reached = s.reached := rfl
@[simp] theorem State.setIe_readFloor : (s.setIe b).readFloor = s.readFloor := rfl
@[simp] theorem State.setIe_draws : (s.setIe b).draws = s.draws := rfl
@[simp] theorem State.setIe_past : (s.setIe b).past = s.past := rfl
@[simp] theorem State.setIe_resp : (s.setIe b).resp = s.resp := rfl
@[simp] theorem State.setIe_pending : (s.setIe b).pending = s.pending := rfl

end SetIe

section Popped

variable (s : State)

@[simp] theorem State.popped_cfg : (s.popped).cfg = s.cfg := rfl
@[simp] theorem State.popped_st : (s.popped).st = s.st := rfl
@[simp] theorem State.popped_offset : (s.popped).offset = s.offset := rfl
@[simp] theorem State.popped_phase : (s.popped).phase = s.phase := rfl
@[simp] theorem State.popped_mode : (s.popped).mode = s.mode := rfl
@[simp] theorem State.popped_rem : (s.popped).rem = s.rem := rfl
@[simp] theorem State.popped_outPtr : (s.popped).outPtr = s.outPtr := rfl
@[simp] theorem State.popped_errCode : (s.popped).errCode = s.errCode := rfl
@[simp] theorem State.popped_errInfo : (s.popped).errInfo = s.errInfo := rfl
@[simp] theorem State.popped_version : (s.popped).version = s.version := rfl
@[simp] theorem State.popped_inLen : (s.popped).inLen = s.inLen := rfl
@[simp] theorem State.popped_ie : (s.popped).ie = s.ie := rfl
@[simp] theorem State.popped_inMem : (s.popped).inMem = s.inMem := rfl
@[simp] theorem State.popped_outMem : (s.popped).outMem = s.outMem := rfl
@[simp] theorem State.popped_reached : (s.popped).reached = s.reached := rfl
@[simp] theorem State.popped_readFloor : (s.popped).readFloor = s.readFloor := rfl
@[simp] theorem State.popped_draws : (s.popped).draws = s.draws := rfl
@[simp] theorem State.popped_past : (s.popped).past = s.past := rfl
@[simp] theorem State.popped_resp : (s.popped).resp = s.resp := rfl
@[simp] theorem State.popped_pending : (s.popped).pending = s.pending.tail := rfl

end Popped

/-! The updates that may be dropped, and their fields that no case changes. -/

section StartCommand

variable (s : State)

@[simp] theorem State.startCommand_cfg : s.startCommand.cfg = s.cfg := by
  unfold State.startCommand; split <;> rfl
@[simp] theorem State.startCommand_mode : s.startCommand.mode = s.mode := by
  unfold State.startCommand; split <;> rfl
@[simp] theorem State.startCommand_version : s.startCommand.version = s.version := by
  unfold State.startCommand; split <;> rfl
@[simp] theorem State.startCommand_inLen : s.startCommand.inLen = s.inLen := by
  unfold State.startCommand; split <;> rfl
@[simp] theorem State.startCommand_ie : s.startCommand.ie = s.ie := by
  unfold State.startCommand; split <;> rfl
@[simp] theorem State.startCommand_inMem : s.startCommand.inMem = s.inMem := by
  unfold State.startCommand; split <;> rfl
@[simp] theorem State.startCommand_outMem : s.startCommand.outMem = s.outMem := by
  unfold State.startCommand; split <;> rfl
@[simp] theorem State.startCommand_draws : s.startCommand.draws = s.draws := by
  unfold State.startCommand; split <;> rfl
@[simp] theorem State.startCommand_past : s.startCommand.past = s.past := by
  unfold State.startCommand; split <;> rfl
@[simp] theorem State.startCommand_resp : s.startCommand.resp = s.resp := by
  unfold State.startCommand; split <;> rfl
@[simp] theorem State.startCommand_pending : s.startCommand.pending = s.pending := by
  unfold State.startCommand; split <;> rfl

end StartCommand

section BitOffsetRead

variable (s : State)

@[simp] theorem State.bitOffsetRead_cfg : s.bitOffsetRead.cfg = s.cfg := by
  unfold State.bitOffsetRead; split <;> rfl
@[simp] theorem State.bitOffsetRead_st : s.bitOffsetRead.st = s.st := by
  unfold State.bitOffsetRead; split <;> rfl
@[simp] theorem State.bitOffsetRead_offset : s.bitOffsetRead.offset = s.offset := by
  unfold State.bitOffsetRead; split <;> rfl
@[simp] theorem State.bitOffsetRead_phase : s.bitOffsetRead.phase = s.phase := by
  unfold State.bitOffsetRead; split <;> rfl
@[simp] theorem State.bitOffsetRead_mode : s.bitOffsetRead.mode = s.mode := by
  unfold State.bitOffsetRead; split <;> rfl
@[simp] theorem State.bitOffsetRead_rem : s.bitOffsetRead.rem = s.rem := by
  unfold State.bitOffsetRead; split <;> rfl
@[simp] theorem State.bitOffsetRead_outPtr : s.bitOffsetRead.outPtr = s.outPtr := by
  unfold State.bitOffsetRead; split <;> rfl
@[simp] theorem State.bitOffsetRead_errCode : s.bitOffsetRead.errCode = s.errCode := by
  unfold State.bitOffsetRead; split <;> rfl
@[simp] theorem State.bitOffsetRead_errInfo : s.bitOffsetRead.errInfo = s.errInfo := by
  unfold State.bitOffsetRead; split <;> rfl
@[simp] theorem State.bitOffsetRead_version : s.bitOffsetRead.version = s.version := by
  unfold State.bitOffsetRead; split <;> rfl
@[simp] theorem State.bitOffsetRead_inLen : s.bitOffsetRead.inLen = s.inLen := by
  unfold State.bitOffsetRead; split <;> rfl
@[simp] theorem State.bitOffsetRead_ie : s.bitOffsetRead.ie = s.ie := by
  unfold State.bitOffsetRead; split <;> rfl
@[simp] theorem State.bitOffsetRead_inMem : s.bitOffsetRead.inMem = s.inMem := by
  unfold State.bitOffsetRead; split <;> rfl
@[simp] theorem State.bitOffsetRead_outMem : s.bitOffsetRead.outMem = s.outMem := by
  unfold State.bitOffsetRead; split <;> rfl
@[simp] theorem State.bitOffsetRead_reached : s.bitOffsetRead.reached = s.reached := by
  unfold State.bitOffsetRead; split <;> rfl
@[simp] theorem State.bitOffsetRead_past : s.bitOffsetRead.past = s.past := by
  unfold State.bitOffsetRead; split <;> rfl
@[simp] theorem State.bitOffsetRead_resp : s.bitOffsetRead.resp = s.resp := by
  unfold State.bitOffsetRead; split <;> rfl
@[simp] theorem State.bitOffsetRead_pending : s.bitOffsetRead.pending = s.pending := by
  unfold State.bitOffsetRead; split <;> rfl

end BitOffsetRead

section SetVersion

variable (v : BitVec 8) (s : State)

@[simp] theorem State.setVersion_cfg : (s.setVersion v).cfg = s.cfg := by
  unfold State.setVersion; split <;> rfl
@[simp] theorem State.setVersion_st : (s.setVersion v).st = s.st := by
  unfold State.setVersion; split <;> rfl
@[simp] theorem State.setVersion_offset : (s.setVersion v).offset = s.offset := by
  unfold State.setVersion; split <;> rfl
@[simp] theorem State.setVersion_phase : (s.setVersion v).phase = s.phase := by
  unfold State.setVersion; split <;> rfl
@[simp] theorem State.setVersion_mode : (s.setVersion v).mode = s.mode := by
  unfold State.setVersion; split <;> rfl
@[simp] theorem State.setVersion_rem : (s.setVersion v).rem = s.rem := by
  unfold State.setVersion; split <;> rfl
@[simp] theorem State.setVersion_outPtr : (s.setVersion v).outPtr = s.outPtr := by
  unfold State.setVersion; split <;> rfl
@[simp] theorem State.setVersion_errCode : (s.setVersion v).errCode = s.errCode := by
  unfold State.setVersion; split <;> rfl
@[simp] theorem State.setVersion_errInfo : (s.setVersion v).errInfo = s.errInfo := by
  unfold State.setVersion; split <;> rfl
@[simp] theorem State.setVersion_inLen : (s.setVersion v).inLen = s.inLen := by
  unfold State.setVersion; split <;> rfl
@[simp] theorem State.setVersion_ie : (s.setVersion v).ie = s.ie := by
  unfold State.setVersion; split <;> rfl
@[simp] theorem State.setVersion_inMem : (s.setVersion v).inMem = s.inMem := by
  unfold State.setVersion; split <;> rfl
@[simp] theorem State.setVersion_outMem : (s.setVersion v).outMem = s.outMem := by
  unfold State.setVersion; split <;> rfl
@[simp] theorem State.setVersion_reached : (s.setVersion v).reached = s.reached := by
  unfold State.setVersion; split <;> rfl
@[simp] theorem State.setVersion_readFloor : (s.setVersion v).readFloor = s.readFloor := by
  unfold State.setVersion; split <;> rfl
@[simp] theorem State.setVersion_draws : (s.setVersion v).draws = s.draws := by
  unfold State.setVersion; split <;> rfl
@[simp] theorem State.setVersion_past : (s.setVersion v).past = s.past := by
  unfold State.setVersion; split <;> rfl
@[simp] theorem State.setVersion_resp : (s.setVersion v).resp = s.resp := by
  unfold State.setVersion; split <;> rfl
@[simp] theorem State.setVersion_pending : (s.setVersion v).pending = s.pending := by
  unfold State.setVersion; split <;> rfl

end SetVersion

section SetInLen

variable (w : Half) (s : State)

@[simp] theorem State.setInLen_cfg : (s.setInLen w).cfg = s.cfg := by
  unfold State.setInLen; split <;> rfl
@[simp] theorem State.setInLen_st : (s.setInLen w).st = s.st := by
  unfold State.setInLen; split <;> rfl
@[simp] theorem State.setInLen_offset : (s.setInLen w).offset = s.offset := by
  unfold State.setInLen; split <;> rfl
@[simp] theorem State.setInLen_phase : (s.setInLen w).phase = s.phase := by
  unfold State.setInLen; split <;> rfl
@[simp] theorem State.setInLen_mode : (s.setInLen w).mode = s.mode := by
  unfold State.setInLen; split <;> rfl
@[simp] theorem State.setInLen_rem : (s.setInLen w).rem = s.rem := by
  unfold State.setInLen; split <;> rfl
@[simp] theorem State.setInLen_outPtr : (s.setInLen w).outPtr = s.outPtr := by
  unfold State.setInLen; split <;> rfl
@[simp] theorem State.setInLen_errCode : (s.setInLen w).errCode = s.errCode := by
  unfold State.setInLen; split <;> rfl
@[simp] theorem State.setInLen_errInfo : (s.setInLen w).errInfo = s.errInfo := by
  unfold State.setInLen; split <;> rfl
@[simp] theorem State.setInLen_version : (s.setInLen w).version = s.version := by
  unfold State.setInLen; split <;> rfl
@[simp] theorem State.setInLen_ie : (s.setInLen w).ie = s.ie := by
  unfold State.setInLen; split <;> rfl
@[simp] theorem State.setInLen_inMem : (s.setInLen w).inMem = s.inMem := by
  unfold State.setInLen; split <;> rfl
@[simp] theorem State.setInLen_outMem : (s.setInLen w).outMem = s.outMem := by
  unfold State.setInLen; split <;> rfl
@[simp] theorem State.setInLen_reached : (s.setInLen w).reached = s.reached := by
  unfold State.setInLen; split <;> rfl
@[simp] theorem State.setInLen_readFloor : (s.setInLen w).readFloor = s.readFloor := by
  unfold State.setInLen; split <;> rfl
@[simp] theorem State.setInLen_draws : (s.setInLen w).draws = s.draws := by
  unfold State.setInLen; split <;> rfl
@[simp] theorem State.setInLen_past : (s.setInLen w).past = s.past := by
  unfold State.setInLen; split <;> rfl
@[simp] theorem State.setInLen_resp : (s.setInLen w).resp = s.resp := by
  unfold State.setInLen; split <;> rfl
@[simp] theorem State.setInLen_pending : (s.setInLen w).pending = s.pending := by
  unfold State.setInLen; split <;> rfl

end SetInLen

section InWindowWrite

variable (n : BusWidth) (j : Nat) (v : Word) (s : State)

@[simp] theorem State.inWindowWrite_cfg : (s.inWindowWrite n j v).cfg = s.cfg := by
  unfold State.inWindowWrite; split <;> rfl
@[simp] theorem State.inWindowWrite_st : (s.inWindowWrite n j v).st = s.st := by
  unfold State.inWindowWrite; split <;> rfl
@[simp] theorem State.inWindowWrite_offset : (s.inWindowWrite n j v).offset = s.offset := by
  unfold State.inWindowWrite; split <;> rfl
@[simp] theorem State.inWindowWrite_phase : (s.inWindowWrite n j v).phase = s.phase := by
  unfold State.inWindowWrite; split <;> rfl
@[simp] theorem State.inWindowWrite_mode : (s.inWindowWrite n j v).mode = s.mode := by
  unfold State.inWindowWrite; split <;> rfl
@[simp] theorem State.inWindowWrite_rem : (s.inWindowWrite n j v).rem = s.rem := by
  unfold State.inWindowWrite; split <;> rfl
@[simp] theorem State.inWindowWrite_outPtr : (s.inWindowWrite n j v).outPtr = s.outPtr := by
  unfold State.inWindowWrite; split <;> rfl
@[simp] theorem State.inWindowWrite_errCode : (s.inWindowWrite n j v).errCode = s.errCode := by
  unfold State.inWindowWrite; split <;> rfl
@[simp] theorem State.inWindowWrite_errInfo : (s.inWindowWrite n j v).errInfo = s.errInfo := by
  unfold State.inWindowWrite; split <;> rfl
@[simp] theorem State.inWindowWrite_version : (s.inWindowWrite n j v).version = s.version := by
  unfold State.inWindowWrite; split <;> rfl
@[simp] theorem State.inWindowWrite_inLen : (s.inWindowWrite n j v).inLen = s.inLen := by
  unfold State.inWindowWrite; split <;> rfl
@[simp] theorem State.inWindowWrite_ie : (s.inWindowWrite n j v).ie = s.ie := by
  unfold State.inWindowWrite; split <;> rfl
@[simp] theorem State.inWindowWrite_outMem : (s.inWindowWrite n j v).outMem = s.outMem := by
  unfold State.inWindowWrite; split <;> rfl
@[simp] theorem State.inWindowWrite_reached : (s.inWindowWrite n j v).reached = s.reached := by
  unfold State.inWindowWrite; split <;> rfl
@[simp] theorem State.inWindowWrite_readFloor : (s.inWindowWrite n j v).readFloor = s.readFloor := by
  unfold State.inWindowWrite; split <;> rfl
@[simp] theorem State.inWindowWrite_draws : (s.inWindowWrite n j v).draws = s.draws := by
  unfold State.inWindowWrite; split <;> rfl
@[simp] theorem State.inWindowWrite_past : (s.inWindowWrite n j v).past = s.past := by
  unfold State.inWindowWrite; split <;> rfl
@[simp] theorem State.inWindowWrite_resp : (s.inWindowWrite n j v).resp = s.resp := by
  unfold State.inWindowWrite; split <;> rfl
@[simp] theorem State.inWindowWrite_pending : (s.inWindowWrite n j v).pending = s.pending := by
  unfold State.inWindowWrite; split <;> rfl

end InWindowWrite

end Sys2Proof.Machine
end

