-- ==== Sys2Proof/Laws/Memory.lean ====
section
/-! SUPPORT. The byte buffers: what a write changes, and that every write keeps the canonical form. -/

namespace Sys2Proof.Machine

/-! ## One byte -/

/-- Read after write, same address. -/
@[simp] theorem Memory.byteAt_put_same (m : Memory) (a : Nat) (v : Byte) :
    Memory.byteAt (Memory.put m a v) a = some v := by
  induction m with
  | nil => simp [Memory.put, Memory.byteAt]
  | cons c m ih =>
    obtain ⟨k, b⟩ := c
    simp only [Memory.put]
    split
    · simp [Memory.byteAt]
    · split
      · simp [Memory.byteAt]
      · simp_all [Memory.byteAt]

/-- Read after write, another address. -/
theorem Memory.byteAt_put_other (m : Memory) {a x : Nat} (v : Byte) (h : x ≠ a) :
    Memory.byteAt (Memory.put m a v) x = Memory.byteAt m x := by
  induction m with
  | nil => simp [Memory.put, Memory.byteAt, h]
  | cons c m ih =>
    obtain ⟨k, b⟩ := c
    simp only [Memory.put]
    split
    · simp [Memory.byteAt, h]
    · split
      · subst_vars; simp [Memory.byteAt, h]
      · simp [Memory.byteAt, ih]

/-- What one write does to every read. -/
theorem Memory.byteAt_put (m : Memory) (a x : Nat) (v : Byte) :
    Memory.byteAt (Memory.put m a v) x = if x = a then some v else Memory.byteAt m x := by
  split
  · subst_vars; simp
  · exact Memory.byteAt_put_other m v ‹_›

/-- A write adds no address but its own. -/
theorem Memory.mem_put {m : Memory} {a : Nat} {v : Byte} {c : Host.Cell} (h : c ∈ Memory.put m a v) :
    c = (a, v) ∨ c ∈ m := by
  induction m with
  | nil => simpa [Memory.put] using h
  | cons d m ih =>
    obtain ⟨k, b⟩ := d
    simp only [Memory.put] at h
    split at h
    · simpa using h
    · split at h
      · rcases List.mem_cons.mp h with h | h
        · exact .inl h
        · exact .inr (List.mem_cons_of_mem _ h)
      · rcases List.mem_cons.mp h with h | h
        · exact .inr (h ▸ List.mem_cons_self)
        · exact (ih h).imp id (List.mem_cons_of_mem _)

/-- A write keeps the canonical form. -/
theorem Memory.put_wf {m : Memory} (a : Nat) (v : Byte) (h : Memory.wf m) : Memory.wf (Memory.put m a v) := by
  induction m with
  | nil => simp [Memory.put]
  | cons c m ih =>
    obtain ⟨k, b⟩ := c
    obtain ⟨hk, hm⟩ := List.pairwise_cons.mp h
    simp only [Memory.put]
    split
    · rename_i hak
      refine List.pairwise_cons.mpr ⟨fun x hx => ?_, h⟩
      rcases List.mem_cons.mp hx with rfl | hx
      · exact hak
      · exact hak.trans (hk x hx)
    · split
      · rename_i hak
        subst hak
        exact List.pairwise_cons.mpr ⟨hk, hm⟩
      · refine List.pairwise_cons.mpr ⟨fun x hx => ?_, ih hm⟩
        rcases Memory.mem_put hx with rfl | hx
        · show k < a
          omega
        · exact hk x hx

/-! ## Several bytes -/

/-- What a write of several bytes does to every read. -/
theorem Memory.byteAt_putAll (m : Memory) (a x : Nat) (bs : List Byte) :
    Memory.byteAt (Memory.putAll m a bs) x =
      if a ≤ x ∧ x < a + bs.length then bs[x - a]? else Memory.byteAt m x := by
  induction bs generalizing m a with
  | nil => simp [Memory.putAll]
  | cons b bs ih =>
    rw [Memory.putAll, ih, Memory.byteAt_put]
    simp only [List.length_cons]
    by_cases hx : x = a
    · subst hx
      simp
    · by_cases hr : a + 1 ≤ x ∧ x < a + 1 + bs.length
      · have h2 : a ≤ x ∧ x < a + (bs.length + 1) := by omega
        have h3 : x - a = (x - (a + 1)) + 1 := by omega
        rw [if_pos hr, if_pos h2, h3, List.getElem?_cons_succ]
      · have h2 : ¬ (a ≤ x ∧ x < a + (bs.length + 1)) := by omega
        rw [if_neg hr, if_neg h2, if_neg hx]

/-- A write of several bytes keeps the canonical form. -/
theorem Memory.putAll_wf {m : Memory} (a : Nat) (bs : List Byte) (h : Memory.wf m) :
    Memory.wf (Memory.putAll m a bs) := by
  induction bs generalizing m a with
  | nil => exact h
  | cons b bs ih => exact ih (a + 1) (Memory.put_wf a b h)

/-- A write of several bytes adds only addresses in its range. -/
theorem Memory.putAll_bound {m : Memory} {a cap : Nat} {bs : List Byte} (h : ∀ c ∈ m, c.1 < cap)
    (hb : a + bs.length ≤ cap) : ∀ c ∈ Memory.putAll m a bs, c.1 < cap := by
  induction bs generalizing m a with
  | nil => exact h
  | cons b bs ih =>
    simp only [List.length_cons] at hb
    refine ih (fun c hc => ?_) (by omega)
    rcases Memory.mem_put hc with rfl | hc
    · show a < cap
      omega
    · exact h c hc

/-- What a window write does to every read: the bytes below the capacity land. -/
theorem Memory.byteAt_putBelow (cap : Nat) (m : Memory) (a x : Nat) (bs : List Byte) :
    Memory.byteAt (Memory.putBelow cap m a bs) x =
      if a ≤ x ∧ x < a + bs.length ∧ x < cap then bs[x - a]? else Memory.byteAt m x := by
  induction bs generalizing m a with
  | nil =>
    rw [Memory.putBelow, if_neg]
    simp only [List.length_nil]
    omega
  | cons b bs ih =>
    rw [Memory.putBelow, ih]
    simp only [List.length_cons]
    by_cases hx : x = a
    · subst hx
      by_cases hc : x < cap
      · simp [hc]
      · simp [hc]
    · by_cases hr : a + 1 ≤ x ∧ x < a + 1 + bs.length ∧ x < cap
      · have h2 : a ≤ x ∧ x < a + (bs.length + 1) ∧ x < cap := by omega
        have h3 : x - a = (x - (a + 1)) + 1 := by omega
        rw [if_pos hr, if_pos h2, h3, List.getElem?_cons_succ]
      · have h2 : ¬ (a ≤ x ∧ x < a + (bs.length + 1) ∧ x < cap) := by omega
        rw [if_neg hr, if_neg h2]
        split
        · exact Memory.byteAt_put_other m b hx
        · rfl

/-- A window write keeps the canonical form. -/
theorem Memory.putBelow_wf {cap : Nat} {m : Memory} (a : Nat) (bs : List Byte) (h : Memory.wf m) :
    Memory.wf (Memory.putBelow cap m a bs) := by
  induction bs generalizing m a with
  | nil => exact h
  | cons b bs ih =>
    refine ih (a + 1) ?_
    split
    · exact Memory.put_wf a b h
    · exact h

/-- A window write adds only addresses below the capacity. -/
theorem Memory.putBelow_bound {cap : Nat} {m : Memory} (a : Nat) (bs : List Byte) (h : ∀ c ∈ m, c.1 < cap) :
    ∀ c ∈ Memory.putBelow cap m a bs, c.1 < cap := by
  induction bs generalizing m a with
  | nil => exact h
  | cons b bs ih =>
    refine ih (a + 1) ?_
    split
    · intro c hc
      rcases Memory.mem_put hc with rfl | hc
      · assumption
      · exact h c hc
    · exact h

/-! ## The buffers of a state -/

/-- An update that leaves IN_MEM alone and is no reset leaves every byte of it alone. -/
theorem State.inByte_congr {s t : State} (h : t.inMem = s.inMem) (hp : t.past = s.past) (k : Nat) :
    t.inByte k = s.inByte k := by
  simp [State.inByte, h, hp]

/-- An update that leaves OUT_MEM alone and is no reset leaves every byte of it alone. -/
theorem State.outByte_congr {s t : State} (h : t.outMem = s.outMem) (hp : t.past = s.past) (k : Nat) :
    t.outByte k = s.outByte k := by
  simp [State.outByte, h, hp]

/-- After rst every byte of IN_MEM is drawn anew (70_reset_and_hazards.md R309). -/
theorem State.rstOp_inByte (s : State) (k : Nat) :
    s.rstOp.inByte k = Config.inMemDraw ((s.inMem, s.outMem) :: s.past) k := rfl

/-- After rst every byte of OUT_MEM is drawn anew (10_state.md R44). -/
theorem State.rstOp_outByte (s : State) (k : Nat) :
    s.rstOp.outByte k = Config.outMemDraw ((s.inMem, s.outMem) :: s.past) k := rfl

/-- The bytes of Append stand at OUT_PTR upward, and every other byte is as before (45_accumulator.md R221). -/
theorem State.appended_outWritten (bs : List Byte) (s : State) : OutWritten s (s.appended bs) bs := by
  intro a
  simp only [State.outByte, State.appended_outMem, State.appended_past, Memory.byteAt_putAll]
  split
  · rename_i h
    have : a - s.outPtr.toNat < bs.length := by omega
    simp [this]
  · rfl

end Sys2Proof.Machine
end

