-- ==== Sys2Proof/Laws/Bits.lean ====
section
/-! SUPPORT. Bit strings, fields and the Bit Cursor: what ReadBits and the decoder see of the stream. -/

namespace Sys2Proof

/-! ## Values of bit strings -/

@[simp] theorem bitsVal_nil : bitsVal [] = 0 := rfl

theorem bitsVal_append (xs : List Bool) (b : Bool) : bitsVal (xs ++ [b]) = 2 * bitsVal xs + b.toNat := by
  simp [bitsVal]

/-- The bits of a bit string's value: the last bit of the string is bit 0. -/
theorem bitsVal_testBit (xs : List Bool) (k : Nat) (h : k < xs.length) :
    (bitsVal xs).testBit k = xs[xs.length - 1 - k]'(by omega) := by
  induction xs using List.reverseRecOn generalizing k with
  | nil => simp at h
  | append_singleton xs b ih =>
    rw [bitsVal_append]
    simp only [List.length_append, List.length_cons, List.length_nil] at h ⊢
    cases k with
    | zero => cases b <;> simp [Nat.testBit_zero]
    | succ k =>
      have hk : k < xs.length := by omega
      have hd : (2 * bitsVal xs + b.toNat) / 2 = bitsVal xs := by
        have := b.toNat_lt
        omega
      rw [Nat.testBit_succ, hd, ih k hk, List.getElem_append_left (by omega)]
      congr 1
      omega

/-- The value of `n` bits is below 2^n. -/
theorem bitsVal_lt (xs : List Bool) : bitsVal xs < 2 ^ xs.length := by
  induction xs using List.reverseRecOn with
  | nil => simp
  | append_singleton xs b ih =>
    rw [bitsVal_append, List.length_append, List.length_singleton, pow_succ]
    cases b <;> simp <;> omega

@[simp] theorem toBits_length (n v : Nat) : (toBits n v).length = n := by
  induction n with
  | zero => rfl
  | succ n ih => simp [toBits, ih]

theorem toBits_getElem (n v j : Nat) (h : j < (toBits n v).length) : (toBits n v)[j] = v.testBit (n - 1 - j) := by
  induction n generalizing j with
  | zero => simp [toBits] at h
  | succ n ih =>
    cases j with
    | zero => simp [toBits]
    | succ j =>
      simp only [toBits_length] at h
      simp only [toBits, List.getElem_cons_succ]
      rw [ih j (by simp; omega)]
      congr 1
      omega

/-- The value of the `n` low bits of `v` in stream order is `v` without its higher bits. -/
theorem bitsVal_toBits (n v : Nat) : bitsVal (toBits n v) = v % 2 ^ n := by
  apply Nat.eq_of_testBit_eq
  intro k
  rw [Nat.testBit_mod_two_pow]
  by_cases hk : k < n
  · rw [bitsVal_testBit _ _ (by simpa using hk), toBits_getElem]
    simp only [hk, decide_true, Bool.true_and, toBits_length]
    congr 1
    omega
  · have : (bitsVal (toBits n v)) < 2 ^ k :=
      lt_of_lt_of_le (bitsVal_lt _) (by simpa using Nat.pow_le_pow_right (by omega) (by omega))
    simp [hk, Nat.testBit_lt_two_pow this]

/-- A field at the front of a bit string reads back. -/
theorem takeField_toBits (n v : Nat) (rest : List Bool) : takeField n (toBits n v ++ rest) = some (v % 2 ^ n) := by
  have h : ¬ (toBits n v ++ rest).length < n := by simp
  have ht : (toBits n v ++ rest).take n = toBits n v := by
    exact List.take_left' (toBits_length n v)
  rw [takeField, if_neg h, ht, bitsVal_toBits]

/-- An operand at the front of a bit string reads back. -/
theorem operand_toBits {n : Nat} (v : BitVec n) (rest : List Bool) : operand n (toBits n v.toNat ++ rest) = v := by
  rw [operand, takeField_toBits]
  simp [Nat.mod_eq_of_lt v.isLt]

/-- Where enough bits are left, an operand's bits are the front of the bit string. -/
theorem toBits_operand {n : Nat} {bits : List Bool} (h : n ≤ bits.length) :
    toBits n (operand n bits).toNat = bits.take n := by
  have hlen : (bits.take n).length = n := by simp [h]
  have hlt : bitsVal (bits.take n) < 2 ^ n := by simpa [hlen] using bitsVal_lt (bits.take n)
  have hop : (operand n bits).toNat = bitsVal (bits.take n) := by
    simp [operand, takeField, Nat.not_lt.mpr h, Nat.mod_eq_of_lt hlt]
  rw [hop]
  apply List.ext_getElem (by simp [h])
  intro j h1 h2
  have hj : j < n := by simpa using h1
  rw [toBits_getElem, bitsVal_testBit _ _ (by omega)]
  congr 1
  omega

end Sys2Proof

namespace Sys2Proof.Machine

/-! ## The Bit Cursor -/

@[simp] theorem State.nextBits_length (s : State) :
    s.nextBits.length = min 16 (8 * s.inLen.toNat - s.offset.toNat) := by simp [State.nextBits]

theorem State.nextBits_getElem (s : State) (j : Nat) (h : j < s.nextBits.length) :
    s.nextBits[j] = s.streamBit (s.offset.toNat + j) := by simp [State.nextBits]

/-- `fits` as the inequality of 40_bit_cursor.md R122. -/
theorem State.fits_iff (n : Nat) (s : State) : s.fits n = true ↔ s.offset.toNat + n ≤ 8 * s.inLen.toNat := by
  simp [State.fits]

/-- A field of 1 to 16 bits can be taken exactly where it fits. -/
theorem State.nextBits_short_iff {n : Nat} (s : State) (h1 : 1 ≤ n) (h16 : n ≤ 16) :
    s.nextBits.length < n ↔ ¬ s.fits n = true := by
  rw [State.fits_iff, State.nextBits_length]
  omega

/-- ReadBits where the field fits: its value is the operand the decoder sees, and OFFSET moves. -/
theorem State.readBits_of_fits {n : Nat} {s : State} (h1 : 1 ≤ n) (h16 : n ≤ 16) (h : s.fits n = true) :
    s.readBits n = (some ((operand n s.nextBits).setWidth 16), s.advance n) := by
  have hlen : ¬ s.nextBits.length < n := fun hc => (State.nextBits_short_iff s h1 h16).mp hc h
  have hlt : bitsVal (s.nextBits.take n) < 2 ^ n := by
    have := bitsVal_lt (s.nextBits.take n)
    rwa [List.length_take, Nat.min_eq_left (Nat.not_lt.mp hlen)] at this
  simp only [State.readBits, operand, takeField, if_neg hlen]
  congr 2
  apply BitVec.eq_of_toNat_eq
  simp [Nat.mod_eq_of_lt hlt]

/-- ReadBits where the field does not fit: exhaustion, and nothing changes. -/
theorem State.readBits_of_not_fits {n : Nat} {s : State} (h1 : 1 ≤ n) (h16 : n ≤ 16) (h : ¬ s.fits n = true) :
    s.readBits n = (none, s) := by
  have hlen : s.nextBits.length < n := (State.nextBits_short_iff s h1 h16).mpr h
  simp only [State.readBits, takeField, if_pos hlen]

/-- OFFSET as a number after a field that fits. -/
theorem State.advance_offset_toNat {n : Nat} {s : State} (hs : s.Sized) (h : s.offset.toNat + n ≤ 8 * s.inLen.toNat) :
    (s.advance n).offset.toNat = s.offset.toNat + n := by
  obtain ⟨hl, hi⟩ := hs
  simp only [Params.legal, Bool.and_eq_true, decide_eq_true_eq] at hl
  rw [State.advance_offset, BitVec.toNat_add, BitVec.toNat_ofNat]
  omega

/-! ## Fields and appends in a step -/

theorem needBits_of_fits {n : Nat} {s : State} (k : State → State) (h : s.fits n = true) :
    needBits n k s = k (s.advance n) := by simp [needBits, h]

theorem needBits_of_not_fits {n : Nat} {s : State} (k : State → State) (h : ¬ s.fits n = true) :
    needBits n k s = s.raise .insufficientBits (BitVec.ofNat 16 n) := by simp [needBits, h]

/-- All a field read can do. -/
theorem needBits_cases (n : Nat) (k : State → State) (s : State) :
    (s.fits n = true ∧ needBits n k s = k (s.advance n)) ∨
      (s.fits n = false ∧ needBits n k s = s.raise .insufficientBits (BitVec.ofNat 16 n)) := by
  cases h : s.fits n <;> simp [needBits, h]

theorem append_of_room {bs : List Byte} {s : State} (k : State → State) (h : s.outPtr.toNat + bs.length ≤ s.cfg.outCap) :
    append bs k s = k (s.appended bs) := by simp [append, Nat.not_lt.mpr h]

theorem append_of_no_room {bs : List Byte} {s : State} (k : State → State) (h : s.cfg.outCap < s.outPtr.toNat + bs.length) :
    append bs k s = s.raise .outputOverflow 0#16 := by simp [append, h]

/-- All Append can do. -/
theorem append_cases (bs : List Byte) (k : State → State) (s : State) :
    (s.outPtr.toNat + bs.length ≤ s.cfg.outCap ∧ append bs k s = k (s.appended bs)) ∨
      (s.cfg.outCap < s.outPtr.toNat + bs.length ∧ append bs k s = s.raise .outputOverflow 0#16) := by
  rcases Nat.lt_or_ge s.cfg.outCap (s.outPtr.toNat + bs.length) with h | h
  · exact .inr ⟨h, append_of_no_room k h⟩
  · exact .inl ⟨h, append_of_room k h⟩

@[simp] theorem decimal_length (k v : Nat) : (decimal k v).length = k := by
  induction k with
  | zero => rfl
  | succ k ih => simp [decimal, ih]

theorem decDigits_in_range (ovr : Overrange) {v k : Nat} (h : v < 10 ^ k) : decDigits ovr v k = some (decimal k v) := by
  simp [decDigits, Nat.not_le.mpr h]

theorem decDigits_wide {v k : Nat} (h : 10 ^ k ≤ v) : decDigits .wide v k = some (decimal (k + 1) v) := by
  simp [decDigits, h]

theorem decDigits_fault {v k : Nat} (h : 10 ^ k ≤ v) : decDigits .fault v k = none := by simp [decDigits, h]

/-- All a numeric group can do once its field is read: an error by value, or an append of `k` or `k + 1` bytes, the latter
only under WIDE and over range. -/
theorem numericGroup_cases (w k v : Nat) (done : State → State) (s : State) :
    (s.fits w = false ∧ numericGroup w k v done s = s.raise .insufficientBits (BitVec.ofNat 16 w)) ∨
    (s.fits w = true ∧ v < 10 ^ k ∧ numericGroup w k v done s = append (decimal k v) done (s.advance w)) ∨
    (s.fits w = true ∧ 10 ^ k ≤ v ∧ s.cfg.numOvr = .wide ∧
      numericGroup w k v done s = append (decimal (k + 1) v) done (s.advance w)) ∨
    (s.fits w = true ∧ 10 ^ k ≤ v ∧ s.cfg.numOvr = .fault ∧
      numericGroup w k v done s = (s.advance w).raise .invalidNumericValue (numericInfo v k)) := by
  unfold numericGroup
  rcases needBits_cases w _ s with ⟨hf, h⟩ | ⟨hf, h⟩
  · rcases Nat.lt_or_ge v (10 ^ k) with hv | hv
    · exact .inr (.inl ⟨hf, hv, by rw [h, decDigits_in_range _ hv]⟩)
    · cases ho : s.cfg.numOvr
      · exact .inr (.inr (.inl ⟨hf, hv, rfl, by rw [h]; simp [ho, decDigits_wide hv]⟩))
      · exact .inr (.inr (.inr ⟨hf, hv, rfl, by rw [h]; simp [ho, decDigits_fault hv]⟩))
  · exact .inl ⟨hf, h⟩

/-! ## The host's side -/

/-- A reading of BIT_OFFSET while BUSY is an offset reached, not below the previous reading (10_state.md R37). -/
theorem State.bitOffset_of_busy {s : State} (hb : s.st = .busy) (hf : s.readFloor ∈ s.reached) :
    s.bitOffset ∈ s.reached ∧ s.readFloor.toNat ≤ s.bitOffset.toNat := by
  have hmem : s.readFloor ∈ s.admitted := by simp [State.admitted, hf]
  have hpos : 0 < s.admitted.length := List.length_pos_of_mem hmem
  have hlt := Nat.mod_lt (Config.bitOffsetPick s.draws) hpos
  have hin : s.bitOffset ∈ s.admitted := by
    rw [State.bitOffset, if_pos hb, List.getD_eq_getElem _ _ hlt]
    exact List.getElem_mem hlt
  simpa [State.admitted] using hin

end Sys2Proof.Machine
end

