-- ==== Sys2Proof/Laws/Access.lean ====
section
/-! SUPPORT. Host addresses as numbers, and which row of the opcode table an access decodes to. -/

namespace Sys2Proof

/-! ## Masks as arithmetic -/

theorem and_highMask_toNat (a : Half) (k : Nat) :
    (a &&& (BitVec.allOnes 16 <<< k)).toNat = a.toNat / 2 ^ k * 2 ^ k := by
  have h : a &&& (BitVec.allOnes 16 <<< k) = (a >>> k) <<< k := by
    apply BitVec.eq_of_getLsbD_eq
    intro i hi
    by_cases hik : i < k
    · simp [hi, hik]
    · have h1 : i - k < 16 := by omega
      have h2 : k + (i - k) = i := by omega
      have h3 : (BitVec.allOnes 16).getLsbD (i - k) = true := by simp only [BitVec.getLsbD_allOnes, h1, decide_true]
      simp only [BitVec.getLsbD_and, BitVec.getLsbD_shiftLeft, BitVec.getLsbD_ushiftRight, hi, hik, h2, h3, decide_true,
        decide_false, Bool.not_false, Bool.true_and, Bool.and_true]
  have hle := Nat.div_mul_le_self a.toNat (2 ^ k)
  rw [h, BitVec.toNat_shiftLeft, BitVec.toNat_ushiftRight, Nat.shiftRight_eq_div_pow, Nat.shiftLeft_eq,
    Nat.mod_eq_of_lt (lt_of_le_of_lt hle a.isLt)]

theorem and_three_toNat (a : Half) : (a &&& 3#16).toNat = a.toNat % 4 := by
  rw [BitVec.toNat_and]
  exact Nat.and_two_pow_sub_one_eq_mod a.toNat 2

/-- A row whose mask keeps the bits from `k` up takes the addresses of one block of 2^k. -/
theorem addrHits_iff {mask hit a : Half} (k : Nat) (hm : mask = BitVec.allOnes 16 <<< k) :
    addrHits mask hit a = true ↔ a.toNat / 2 ^ k * 2 ^ k = hit.toNat := by
  rw [addrHits, beq_iff_eq, hm, ← and_highMask_toNat]
  exact ⟨fun h => by rw [h], fun h => BitVec.eq_of_toNat_eq h⟩

theorem addrHits_reg (a : Half) : addrHits 0xFFC0#16 0#16 a = true ↔ a.toNat ≤ 0x3F := by
  rw [addrHits_iff 6 (by decide)]
  simp only [BitVec.toNat_ofNat]
  omega

theorem addrHits_in (a : Half) : addrHits 0xE000#16 0x2000#16 a = true ↔ 0x2000 ≤ a.toNat ∧ a.toNat ≤ 0x3FFF := by
  rw [addrHits_iff 13 (by decide)]
  simp only [BitVec.toNat_ofNat]
  omega

/-! ## The rows of bus errors -/

theorem HostAccess.misaligned_iff (acc : HostAccess) :
    acc.misaligned = true ↔ acc.busWidth = .w32 ∧ acc.addr.toNat % 4 ≠ 0 := by
  have h : acc.addr &&& 3#16 = 0#16 ↔ acc.addr.toNat % 4 = 0 := by
    rw [← and_three_toNat]
    exact ⟨fun h => by rw [h]; rfl, fun h => BitVec.eq_of_toNat_eq h⟩
  simp [HostAccess.misaligned, h]

theorem HostAccess.misalignedBy_iff (acc : HostAccess) (k : Half) :
    acc.misalignedBy k = true ↔ acc.busWidth = .w32 ∧ acc.addr.toNat % 4 = k.toNat := by
  have h : acc.addr &&& 3#16 = k ↔ acc.addr.toNat % 4 = k.toNat := by
    rw [← and_three_toNat]
    exact ⟨fun h => by rw [h], fun h => BitVec.eq_of_toNat_eq h⟩
  simp [HostAccess.misalignedBy, addrHits, h]

theorem HostAccess.register8_iff (acc : HostAccess) :
    acc.register8 = true ↔ acc.busWidth = .w8 ∧ acc.addr.toNat ≤ 0x3F := by
  simp only [HostAccess.register8, Bool.and_eq_true, beq_iff_eq, addrHits_reg]

/-- 46_host_commands.md R250: the accesses that get a bus error. -/
def HostAccess.Bad (acc : HostAccess) : Prop :=
  (acc.busWidth = .w32 ∧ acc.addr.toNat % 4 ≠ 0) ∨ (acc.busWidth = .w8 ∧ acc.addr.toNat ≤ 0x3F) ∨
    (0x40 ≤ acc.addr.toNat ∧ acc.addr.toNat ≤ 0x1FFF) ∨ (0x4000 ≤ acc.addr.toNat ∧ acc.addr.toNat ≤ 0x7FFF)

/-- The unmapped rows as ranges (20_memory.md R70). -/
theorem HostAccess.unmappedAt_iff (acc : HostAccess) {mask hit : Half} (k lo hi : Nat) (hm : mask = BitVec.allOnes 16 <<< k)
    (hr : ∀ n, n / 2 ^ k * 2 ^ k = hit.toNat ↔ lo ≤ n ∧ n ≤ hi) :
    acc.unmappedAt mask hit = true ↔ acc.misaligned = false ∧ lo ≤ acc.addr.toNat ∧ acc.addr.toNat ≤ hi := by
  rw [HostAccess.unmappedAt, Bool.and_eq_true, addrHits_iff k hm, hr, Bool.not_eq_true']

/-- Some BUSERR row takes an access exactly when it is one of those. -/
theorem busErrRows_any (acc : HostAccess) : (∃ row ∈ busErrRows, row.1 acc = true) ↔ acc.Bad := by
  have h40 := acc.unmappedAt_iff (mask := 0xFFC0#16) (hit := 0x0040#16) 6 0x40 0x7F (by decide) (by simp; omega)
  have h80 := acc.unmappedAt_iff (mask := 0xFF80#16) (hit := 0x0080#16) 7 0x80 0xFF (by decide) (by simp; omega)
  have h100 := acc.unmappedAt_iff (mask := 0xFF00#16) (hit := 0x0100#16) 8 0x100 0x1FF (by decide) (by simp; omega)
  have h200 := acc.unmappedAt_iff (mask := 0xFE00#16) (hit := 0x0200#16) 9 0x200 0x3FF (by decide) (by simp; omega)
  have h400 := acc.unmappedAt_iff (mask := 0xFC00#16) (hit := 0x0400#16) 10 0x400 0x7FF (by decide) (by simp; omega)
  have h800 := acc.unmappedAt_iff (mask := 0xF800#16) (hit := 0x0800#16) 11 0x800 0xFFF (by decide) (by simp; omega)
  have h1000 := acc.unmappedAt_iff (mask := 0xF000#16) (hit := 0x1000#16) 12 0x1000 0x1FFF (by decide) (by simp; omega)
  have h4000 := acc.unmappedAt_iff (mask := 0xC000#16) (hit := 0x4000#16) 14 0x4000 0x7FFF (by decide) (by simp; omega)
  simp only [busErrRows, List.mem_cons, List.not_mem_nil, or_false, exists_eq_or_imp, exists_eq_left,
    HostAccess.misalignedBy_iff, HostAccess.register8_iff, h40, h80, h100, h200, h400, h800, h1000, h4000, HostAccess.Bad,
    Bool.eq_false_iff, ne_eq, acc.misaligned_iff]
  simp only [BitVec.toNat_ofNat]
  generalize acc.addr.toNat = n
  have hu : ∀ p : Prop, (p ∧ 64 ≤ n ∧ n ≤ 127 ∨ p ∧ 128 ≤ n ∧ n ≤ 255 ∨ p ∧ 256 ≤ n ∧ n ≤ 511 ∨ p ∧ 512 ≤ n ∧ n ≤ 1023 ∨
      p ∧ 1024 ≤ n ∧ n ≤ 2047 ∨ p ∧ 2048 ≤ n ∧ n ≤ 4095 ∨ p ∧ 4096 ≤ n ∧ n ≤ 8191 ∨ p ∧ 16384 ≤ n ∧ n ≤ 32767) ↔
      p ∧ (64 ≤ n ∧ n ≤ 8191 ∨ 16384 ≤ n ∧ n ≤ 32767) := by
    intro p
    by_cases hp : p <;> simp only [hp, true_and, false_and, or_false]
    omega
  rw [hu]
  cases acc.busWidth <;> simp only [reduceCtorEq, true_and, false_and, false_or, not_false_eq_true]
  omega

/-- The row of an access: a BUSERR row that takes it, or the window it is in. -/
theorem decodeAccess_cases (acc : HostAccess) :
    (acc.Bad ∧ ∃ row ∈ busErrRows, row.1 acc = true ∧ decodeAccess acc = row.2 acc) ∨
    (¬ acc.Bad ∧ acc.addr.toNat ≤ 0x3F ∧ decodeAccess acc = decodeRegister acc) ∨
    (¬ acc.Bad ∧ 0x2000 ≤ acc.addr.toNat ∧ acc.addr.toNat ≤ 0x3FFF ∧ decodeAccess acc = decodeInWindow acc) ∨
    (¬ acc.Bad ∧ 0x8000 ≤ acc.addr.toNat ∧ decodeAccess acc = decodeOutWindow acc) := by
  unfold decodeAccess
  cases hf : busErrRows.find? (fun row => row.1 acc) with
  | some row =>
    have hm := List.mem_of_find?_eq_some hf
    have hp := List.find?_some hf
    exact .inl ⟨(busErrRows_any acc).mp ⟨row, hm, hp⟩, row, hm, hp, rfl⟩
  | none =>
    have hb : ¬ acc.Bad := by
      rw [← busErrRows_any]
      rintro ⟨row, hm, hp⟩
      exact (List.find?_eq_none.mp hf row hm) hp
    refine .inr ?_
    have hlt := acc.addr.isLt
    by_cases hr : addrHits 0xFFC0#16 0#16 acc.addr = true
    · exact .inl ⟨hb, (addrHits_reg _).mp hr, by simp [hr]⟩
    · by_cases hi : addrHits 0xE000#16 0x2000#16 acc.addr = true
      · obtain ⟨h1, h2⟩ := (addrHits_in _).mp hi
        exact .inr (.inl ⟨hb, h1, h2, by simp [hr, hi]⟩)
      · rw [addrHits_reg] at hr
        rw [addrHits_in] at hi
        have h8 : 0x8000 ≤ acc.addr.toNat := by
          have hb' := hb
          simp only [HostAccess.Bad, not_or] at hb'
          omega
        refine .inr (.inr ⟨hb, h8, ?_⟩)
        rw [← addrHits_reg] at hr
        rw [← addrHits_in] at hi
        simp [hr, hi]

/-! ## Addresses of registers and window bytes -/

@[simp] theorem regAddr_toNat (r : BitVec 4) : (regAddr r).toNat = 4 * r.toNat := by
  have := r.isLt
  simp only [regAddr, BitVec.toNat_append, BitVec.toNat_ofNat, Nat.zero_or, Nat.or_zero,
    Nat.shiftLeft_eq, Nat.zero_mod, Nat.zero_mul]
  omega

@[simp] theorem inAddr_toNat (j : BitVec 13) : (inAddr j).toNat = 0x2000 + j.toNat := by
  rw [inAddr, BitVec.toNat_append, ← Nat.shiftLeft_add_eq_or_of_lt j.isLt]
  simp [Nat.shiftLeft_eq]

@[simp] theorem outAddr_toNat (j : BitVec 15) : (outAddr j).toNat = 0x8000 + j.toNat := by
  rw [outAddr, BitVec.toNat_append, ← Nat.shiftLeft_add_eq_or_of_lt j.isLt]
  simp [Nat.shiftLeft_eq]

/-- A register's address is the address it is decoded from. -/
theorem regAddr_extract {a : Half} (h : a.toNat ≤ 0x3F) (h4 : a.toNat % 4 = 0) : regAddr (a.extractLsb' 2 4) = a := by
  apply BitVec.eq_of_toNat_eq
  rw [regAddr_toNat, BitVec.extractLsb'_toNat, Nat.shiftRight_eq_div_pow]
  omega

theorem inAddr_extract {a : Half} (h : 0x2000 ≤ a.toNat) (h' : a.toNat ≤ 0x3FFF) : inAddr (a.extractLsb' 0 13) = a := by
  apply BitVec.eq_of_toNat_eq
  rw [inAddr_toNat, BitVec.extractLsb'_toNat, Nat.shiftRight_eq_div_pow]
  omega

theorem outAddr_extract {a : Half} (h : 0x8000 ≤ a.toNat) : outAddr (a.extractLsb' 0 15) = a := by
  have := a.isLt
  apply BitVec.eq_of_toNat_eq
  rw [outAddr_toNat, BitVec.extractLsb'_toNat, Nat.shiftRight_eq_div_pow]
  omega

end Sys2Proof
end

