-- ==== Sys2Proof/Laws/Effects.lean ====
section
/-! SUPPORT. What a core step and a host access can do, said once: every claim about a next state is a case analysis of
CoreEffect or HostEffect. -/

namespace Sys2Proof.Machine

/-! ## The core -/

/-- The group rows, with how many bytes each may append: REM falls by `k`, `len` bytes come of `w` bits. -/
def GroupRow (s : State) (w k len : Nat) : Prop :=
  (s.mode = .num ∧ w = 10 ∧ k = 3 ∧ 3 ≤ s.rem.toNat ∧ (len = 3 ∨ len = 4 ∧ s.cfg.numOvr = .wide)) ∨
  (s.mode = .num ∧ w = 7 ∧ k = 2 ∧ s.rem.toNat = 2 ∧ (len = 2 ∨ len = 3 ∧ s.cfg.numOvr = .wide)) ∨
  (s.mode = .num ∧ w = 4 ∧ k = 1 ∧ s.rem.toNat = 1 ∧ (len = 1 ∨ len = 2 ∧ s.cfg.numOvr = .wide)) ∨
  (s.mode = .alnum ∧ w = 11 ∧ k = 2 ∧ 2 ≤ s.rem.toNat ∧ len = 2) ∨
  (s.mode = .alnum ∧ w = 6 ∧ k = 1 ∧ s.rem.toNat = 1 ∧ len = 1) ∨
  (s.mode = .byte ∧ w = 8 ∧ k = 1 ∧ 1 ≤ s.rem.toNat ∧ len = 1)

/-- All a core step can do to a state that is BUSY (41_dispatcher.md R140 to R148 and the body steps). -/
inductive CoreEffect (s : State) : State → Prop
  | segment (m : Mode) : s.phase = .dispatch → s.fits 4 = true → m ≠ .mode3 → CoreEffect s ((s.advance 4).enterSegment m)
  | term : s.phase = .dispatch → s.fits 4 = true → CoreEffect s (s.advance 4).finishOk
  | eos : s.phase = .dispatch → s.fits 4 = false → CoreEffect s s.finishOk
  | unsupported (t : Half) : s.phase = .dispatch → s.fits 4 = true → CoreEffect s ((s.advance 4).raise .unsupportedMode t)
  | badVersion : s.phase = .segLen → band s.version = none →
      CoreEffect s (s.raise .unsupportedVersion (s.version.setWidth 16))
  | length (w : Nat) (l : Half) : s.phase = .segLen → 8 ≤ w → w ≤ 16 → (s.mode = .num → 10 ≤ w) → s.mode ≠ .mode3 →
      s.fits w = true → CoreEffect s ((s.advance w).loadLength l)
  | short (w : Nat) : s.phase ≠ .dispatch → 4 ≤ w → w ≤ 16 → s.fits w = false →
      CoreEffect s (s.raise .insufficientBits (BitVec.ofNat 16 w))
  | badNumber (w k : Nat) (v : Half) : s.phase = .segBody → 4 ≤ w → w ≤ 16 → s.fits w = true → s.cfg.numOvr = .fault →
      s.mode = .num → GroupRow s w k k → (s.readBits w).1 = some v → 10 ^ k ≤ v.toNat →
      CoreEffect s ((s.advance w).raise .invalidNumericValue (numericInfo v.toNat k))
  | badSymbol (w : Nat) (info : Half) : s.phase = .segBody → 4 ≤ w → w ≤ 16 → s.fits w = true →
      CoreEffect s ((s.advance w).raise .invalidAlphanumericValue info)
  | overflow (w k : Nat) (bs : List Byte) : s.phase = .segBody → s.fits w = true → GroupRow s w k bs.length →
      s.cfg.outCap < s.outPtr.toNat + bs.length → CoreEffect s ((s.advance w).raise .outputOverflow 0#16)
  | group (w k : Nat) (bs : List Byte) : s.phase = .segBody → s.fits w = true → GroupRow s w k bs.length →
      s.outPtr.toNat + bs.length ≤ s.cfg.outCap →
      CoreEffect s (((s.advance w).appended bs).consume (BitVec.ofNat 16 k))

/-- The last group of a segment counts REM down to 0 like any other. -/
theorem State.endSegment_eq_consume {s : State} {k : Nat} (h : s.rem.toNat = k) :
    s.endSegment = s.consume (BitVec.ofNat 16 k) := by
  have hr : s.rem = BitVec.ofNat 16 k := by
    apply BitVec.eq_of_toNat_eq
    simp only [BitVec.toNat_ofNat]
    omega
  simp [State.endSegment, State.consume, hr]

/-- A tag's instruction: a segment, TERM, or UnsupportedMode with the tag. -/
theorem decodeTag_cases (t : BitVec 4) :
    (t = 0#4 ∧ decodeTag t = .term) ∨ (t = 1#4 ∧ decodeTag t = .num) ∨ (t = 2#4 ∧ decodeTag t = .alnum) ∨
    (t = 4#4 ∧ decodeTag t = .byte) ∨
    (¬ (t = 0#4 ∨ t = 1#4 ∨ t = 2#4 ∨ t = 4#4) ∧
      ∀ s, exec (decodeTag t) s = .next (unsupportedTag (t.setWidth 16) s)) := by
  have h : t = 0#4 ∨ t = 1#4 ∨ t = 2#4 ∨ t = 3#4 ∨ t = 4#4 ∨ t = 5#4 ∨ t = 6#4 ∨ t = 7#4 ∨ t = 8#4 ∨ t = 9#4 ∨ t = 10#4 ∨
      t = 11#4 ∨ t = 12#4 ∨ t = 13#4 ∨ t = 14#4 ∨ t = 15#4 := by
    revert t
    decide
  rcases h with h | h | h | h | h | h | h | h | h | h | h | h | h | h | h | h <;> subst h
  · exact .inl ⟨rfl, rfl⟩
  · exact .inr (.inl ⟨rfl, rfl⟩)
  · exact .inr (.inr (.inl ⟨rfl, rfl⟩))
  · exact .inr (.inr (.inr (.inr ⟨by decide, fun _ => rfl⟩)))
  · exact .inr (.inr (.inr (.inl ⟨rfl, rfl⟩)))
  all_goals exact .inr (.inr (.inr (.inr ⟨by decide, fun _ => rfl⟩)))

/-- A tag step. -/
theorem execTag_effect {s : State} (hp : s.phase = .dispatch) (hf : s.fits 4 = true) (t : BitVec 4) :
    ∃ u, exec (decodeTag t) s = .next u ∧ CoreEffect s u := by
  rcases decodeTag_cases t with ⟨_, h⟩ | ⟨_, h⟩ | ⟨_, h⟩ | ⟨_, h⟩ | ⟨_, h⟩
  · rw [h]; exact ⟨_, rfl, .term hp hf⟩
  · rw [h]; exact ⟨_, rfl, .segment .num hp hf (by decide)⟩
  · rw [h]; exact ⟨_, rfl, .segment .alnum hp hf (by decide)⟩
  · rw [h]; exact ⟨_, rfl, .segment .byte hp hf (by decide)⟩
  · rw [h]; exact ⟨_, rfl, .unsupported _ hp hf⟩

/-- A length field is loaded, or is short. -/
theorem lengthField_effect {s : State} (hp : s.phase = .segLen) (hm : s.mode ≠ .mode3) {w : Nat} (h8 : 8 ≤ w) (h16 : w ≤ 16)
    (hn : s.mode = .num → 10 ≤ w) (l : Half) : CoreEffect s (lengthField w l s) := by
  rcases needBits_cases w (State.loadLength l) s with ⟨hf, h⟩ | ⟨hf, h⟩
  · rw [lengthField, h]
    exact .length w l hp h8 h16 hn hm hf
  · rw [lengthField, h]
    exact .short w (by simp [hp]) (by omega) h16 hf

/-- The end of a group step, from its bytes on. -/
theorem append_effect {s : State} {w k : Nat} {bs : List Byte} {done : State → State} (hp : s.phase = .segBody)
    (hf : s.fits w = true) (hr : GroupRow s w k bs.length)
    (hd : ∀ u : State, u.rem = s.rem → done u = u.consume (BitVec.ofNat 16 k)) :
    CoreEffect s (append bs done (s.advance w)) := by
  rcases append_cases bs done (s.advance w) with ⟨hc, h⟩ | ⟨hc, h⟩
  · rw [h, hd _ (by simp)]
    exact .group w k bs hp hf hr (by simpa using hc)
  · rw [h]
    exact .overflow w k bs hp hf hr (by simpa using hc)

/-- A numeric group step. -/
theorem numericGroup_effect {s : State} {w k : Nat} {done : State → State} (hp : s.phase = .segBody) (hm : s.mode = .num)
    (hw : 4 ≤ w) (h16 : w ≤ 16) (hr : GroupRow s w k k) (hr1 : s.cfg.numOvr = .wide → GroupRow s w k (k + 1))
    (hd : ∀ u : State, u.rem = s.rem → done u = u.consume (BitVec.ofNat 16 k)) :
    CoreEffect s (numericGroup w k (operand w s.nextBits).toNat done s) := by
  rcases numericGroup_cases w k (operand w s.nextBits).toNat done s with
    ⟨hf, h⟩ | ⟨hf, _, h⟩ | ⟨hf, _, ho, h⟩ | ⟨hf, hv, ho, h⟩
  · rw [h]
    exact .short w (by simp [hp]) hw h16 hf
  · rw [h]
    exact append_effect hp hf (by simpa using hr) hd
  · rw [h]
    exact append_effect hp hf (by simpa using hr1 ho) hd
  · have hx : ((operand w s.nextBits).setWidth 16).toNat = (operand w s.nextBits).toNat := by
      rw [BitVec.toNat_setWidth]
      exact Nat.mod_eq_of_lt ((operand w s.nextBits).isLt.trans_le (Nat.pow_le_pow_right (by omega) h16))
    have he := CoreEffect.badNumber w k _ hp hw h16 hf ho hm hr
      (by rw [State.readBits_of_fits (by omega) h16 hf]) (by rw [hx]; exact hv)
    rwa [hx, ← h] at he

/-- A group step, by its row. -/
theorem execGroup_effect {s : State} {i : Instr} (hp : s.phase = .segBody)
    (h : decodeGroup s.ctx s.nextBits = .ok i) : ∃ t, exec i s = .next t ∧ CoreEffect s t := by
  have hc : ∀ (k : Nat) (u : State), s.rem.toNat = k → u.rem = s.rem → u.endSegment = u.consume (BitVec.ofNat 16 k) :=
    fun k u hk hu => State.endSegment_eq_consume (by rw [hu]; exact hk)
  unfold decodeGroup at h
  split at h
  · simp at h
  · rename_i hr0
    change s.rem ≠ 0#16 at hr0
    have hr1 : 1 ≤ s.rem.toNat := by
      rcases Nat.eq_zero_or_pos s.rem.toNat with h0 | h0
      · exact absurd (BitVec.eq_of_toNat_eq (by simpa using h0)) hr0
      · exact h0
    split at h <;> rename_i hm <;> change s.mode = _ at hm
    · split at h
      · rename_i h3
        change 3 ≤ s.rem.toNat at h3
        cases h
        refine ⟨_, rfl, numericGroup_effect (k := 3) hp hm (by omega) (by omega) ?_ ?_ (fun u _ => rfl)⟩
        · exact .inl ⟨hm, rfl, rfl, h3, .inl rfl⟩
        · exact fun ho => .inl ⟨hm, rfl, rfl, h3, .inr ⟨rfl, ho⟩⟩
      · split at h
        · rename_i h2
          change s.rem = 2#16 at h2
          cases h
          have h2 : s.rem.toNat = 2 := by simp [h2]
          refine ⟨_, rfl, numericGroup_effect (k := 2) hp hm (by omega) (by omega) ?_ ?_ (fun u hu => hc 2 u h2 hu)⟩
          · exact .inr (.inl ⟨hm, rfl, rfl, h2, .inl rfl⟩)
          · exact fun ho => .inr (.inl ⟨hm, rfl, rfl, h2, .inr ⟨rfl, ho⟩⟩)
        · rename_i h3 h2
          change ¬ s.rem = 2#16 at h2
          change ¬ 3 ≤ s.rem.toNat at h3
          cases h
          have h1 : s.rem.toNat = 1 := by
            have : s.rem.toNat ≠ 2 := fun hh => h2 (BitVec.eq_of_toNat_eq (by simpa using hh))
            omega
          refine ⟨_, rfl, numericGroup_effect (k := 1) hp hm (by omega) (by omega) ?_ ?_ (fun u hu => hc 1 u h1 hu)⟩
          · exact .inr (.inr (.inl ⟨hm, rfl, rfl, h1, .inl rfl⟩))
          · exact fun ho => .inr (.inr (.inl ⟨hm, rfl, rfl, h1, .inr ⟨rfl, ho⟩⟩))
    · split at h
      · rename_i h2
        change 2 ≤ s.rem.toNat at h2
        cases h
        refine ⟨_, rfl, ?_⟩
        rcases needBits_cases 11 _ s with ⟨hf, hn⟩ | ⟨hf, hn⟩
        · rw [hn]
          split
          · exact .badSymbol 11 _ hp (by omega) (by omega) hf
          · exact append_effect (k := 2) hp hf (.inr (.inr (.inr (.inl ⟨hm, rfl, rfl, h2, rfl⟩)))) (fun u _ => rfl)
        · rw [hn]
          exact .short 11 (by simp [hp]) (by omega) (by omega) hf
      · rename_i h2
        change ¬ 2 ≤ s.rem.toNat at h2
        cases h
        have h1 : s.rem.toNat = 1 := by omega
        refine ⟨_, rfl, ?_⟩
        rcases needBits_cases 6 _ s with ⟨hf, hn⟩ | ⟨hf, hn⟩
        · rw [hn]
          split
          · exact .badSymbol 6 _ hp (by omega) (by omega) hf
          · exact append_effect (k := 1) hp hf (.inr (.inr (.inr (.inr (.inl ⟨hm, rfl, rfl, h1, rfl⟩)))))
              (fun u hu => hc 1 u h1 hu)
        · rw [hn]
          exact .short 6 (by simp [hp]) (by omega) (by omega) hf
    · cases h
      refine ⟨_, rfl, ?_⟩
      rcases needBits_cases 8 _ s with ⟨hf, hn⟩ | ⟨hf, hn⟩
      · rw [hn]
        exact append_effect (k := 1) hp hf (.inr (.inr (.inr (.inr (.inr ⟨hm, rfl, rfl, hr1, rfl⟩))))) (fun u _ => rfl)
      · rw [hn]
        exact .short 8 (by simp [hp]) (by omega) (by omega) hf
    · simp at h

/-- A length step, by its row. -/
theorem execLen_effect {s : State} {i : Instr} (hp : s.phase = .segLen)
    (h : decodeLen s.ctx s.nextBits = .ok i) : ∃ t, exec i s = .next t ∧ CoreEffect s t := by
  unfold decodeLen at h
  dsimp only [State.ctx] at h
  split at h
  · rename_i hb
    cases h
    exact ⟨_, rfl, .badVersion hp hb⟩
  · split at h
    all_goals first
      | (simp at h; done)
      | (cases h
         exact ⟨_, rfl, lengthField_effect hp (by simp [*]) (by omega) (by omega) (by simp [*]) _⟩)

/-- THE CORE STEP. The instruction decoded at OFFSET has a next state, and that state is one of CoreEffect. -/
theorem exec_coreEffect {s : State} {i : Instr} (h : decodeStream s.ctx s.nextBits = .ok i) :
    ∃ t, exec i s = .next t ∧ CoreEffect s t := by
  unfold decodeStream at h
  split at h
  · rename_i hp
    have hp : s.phase = .dispatch := hp
    split at h
    · rename_i ht
      cases h
      refine ⟨_, rfl, .eos hp ?_⟩
      by_contra hf
      have := (State.nextBits_short_iff (n := 4) s (by omega) (by omega)).not.mpr (by simpa using hf)
      rw [takeField, if_neg this] at ht
      simp at ht
    · rename_i ht
      cases h
      refine execTag_effect hp ?_ _
      by_contra hf
      have := (State.nextBits_short_iff (n := 4) s (by omega) (by omega)).mpr hf
      rw [takeField, if_pos this] at ht
      simp at ht
  · rename_i hp
    exact execLen_effect hp h
  · rename_i hp
    exact execGroup_effect hp h
  · simp at h

/-! ## The host -/

/-- All a host access can do. -/
inductive HostEffect (acc : HostAccess) (s : State) : State → Prop
  | answer (r : Response) : HostEffect acc s (s.respond r)
  | bitOffset (r : Response) : acc = .read .w32 0x1C#16 → HostEffect acc s (s.bitOffsetRead.respond r)
  | start (v : Word) : acc = .write .w32 0#16 v → v.getLsbD 1 = false → v.getLsbD 0 = true →
      HostEffect acc s (s.startCommand.respond (.write false))
  | clear (v : Word) : acc = .write .w32 0#16 v → v.getLsbD 1 = true → HostEffect acc s (s.clearCommand.respond (.write false))
  | version (v : Word) : acc = .write .w32 0x08#16 v → HostEffect acc s ((s.setVersion (v.setWidth 8)).respond (.write false))
  | inLen (v : Word) : acc = .write .w32 0x0C#16 v → HostEffect acc s ((s.setInLen (v.setWidth 16)).respond (.write false))
  | intEn (v : Word) : acc = .write .w32 0x20#16 v → HostEffect acc s ((s.setIe (v.getLsbD 0)).respond (.write false))
  | inWindow (n : BusWidth) (a : Half) (v : Word) : acc = .write n a v → 0x2000 ≤ a.toNat → a.toNat ≤ 0x3FFF →
      HostEffect acc s ((s.inWindowWrite n (a.toNat - 0x2000) v).respond (.write false))

/-- A CTRL write, by its bits. -/
theorem decodeCtrl_effect (v : Word) (s : State) :
    ∃ t, exec (decodeCtrl v) s = .next t ∧ HostEffect (.write .w32 0#16 v) s t := by
  unfold decodeCtrl
  split
  · exact ⟨_, rfl, .clear v rfl ‹_›⟩
  · split
    · rename_i h1 h0
      exact ⟨_, rfl, .start v rfl (Bool.eq_false_iff.mpr h1) h0⟩
    · exact ⟨_, rfl, .answer _⟩

/-- A 32-bit aligned access to the register window. -/
theorem decodeRegister_effect {acc : HostAccess} (hw : acc.busWidth = .w32) (hr : acc.addr.toNat ≤ 0x3F)
    (ha : acc.addr.toNat % 4 = 0) (s : State) : ∃ t, exec (decodeRegister acc) s = .next t ∧ HostEffect acc s t := by
  have hreg := regAddr_extract hr ha
  cases acc with
  | read n a =>
    obtain rfl : n = .w32 := hw
    refine ⟨_, rfl, ?_⟩
    generalize hx : a.extractLsb' 2 4 = r
    have ha : a = regAddr r := by rw [← hx]; exact hreg.symm
    unfold State.registerRead
    split
    · rename_i h7
      rw [ha, h7]
      exact .bitOffset _ rfl
    · exact .answer _
  | write n a v =>
    obtain rfl : n = .w32 := hw
    change ∃ t, exec (decodeRegWrite (a.extractLsb' 2 4) v) s = .next t ∧ _
    generalize hx : a.extractLsb' 2 4 = r
    have ha : a = regAddr r := by rw [← hx]; exact hreg.symm
    unfold decodeRegWrite
    split
    · rw [ha, ‹r = _›]
      exact decodeCtrl_effect v s
    split
    · rw [ha, ‹r = _›]
      exact ⟨_, rfl, .version v rfl⟩
    split
    · rw [ha, ‹r = _›]
      exact ⟨_, rfl, .inLen v rfl⟩
    split
    · rw [ha, ‹r = _›]
      exact ⟨_, rfl, .intEn v rfl⟩
    · exact ⟨_, rfl, .answer _⟩

/-- A BUSERR row answers BUSERR and does nothing else. -/
theorem busErrRow_exec {row : (HostAccess → Bool) × (HostAccess → Instr)} (h : row ∈ busErrRows) (acc : HostAccess) (s : State) :
    exec (row.2 acc) s = .next (s.busError acc) := by
  simp only [busErrRows, List.mem_cons, List.not_mem_nil, or_false] at h
  rcases h with h | h | h | h | h | h | h | h | h | h | h | h <;> subst h <;> rfl

/-- BUSERR only answers. -/
theorem busError_effect (acc acc' : HostAccess) (s : State) : HostEffect acc' s (s.busError acc) := by
  cases acc <;> exact .answer _

/-- THE HOST ACCESS. The instruction an access decodes to has a next state, and that state is one of HostEffect. -/
theorem exec_hostEffect (acc : HostAccess) (s : State) :
    ∃ t, exec (decodeAccess acc) s = .next t ∧ HostEffect acc s t := by
  rcases decodeAccess_cases acc with ⟨_, row, hm, _, h⟩ | ⟨hb, hr, h⟩ | ⟨_, h1, h2, h⟩ | ⟨_, _, h⟩
  · exact ⟨_, by rw [h, busErrRow_exec hm], busError_effect _ _ _⟩
  · rw [h]
    simp only [HostAccess.Bad, not_or, not_and, not_le, not_not] at hb
    obtain ⟨hb1, hb2, -, -⟩ := hb
    have hw : acc.busWidth = .w32 := by
      cases hw : acc.busWidth
      · exact absurd (hb2 hw) (by omega)
      · rfl
    exact decodeRegister_effect hw hr (hb1 hw) s
  · rw [h]
    cases acc with
    | read n a => exact ⟨_, rfl, .answer _⟩
    | write n a v =>
      refine ⟨_, rfl, ?_⟩
      have hj : (a.extractLsb' 0 13).toNat = a.toNat - 0x2000 := by
        have := congrArg BitVec.toNat (inAddr_extract h1 h2)
        rw [inAddr_toNat] at this
        simp only [HostAccess.addr] at this
        omega
      rw [hj]
      exact .inWindow n a v rfl h1 h2
  · rw [h]
    cases acc <;> exact ⟨_, rfl, .answer _⟩

end Sys2Proof.Machine
end

