-- ==== Sys2Proof/Laws/PerInstr.lean ====
section
/-! SUPPORT. The laws made per instruction. EncodeShape: what an instruction's words are, a stream field of its row's width
(30_encoding.md R91 to R98, R106) or a bus access. -/

namespace Sys2Proof.Laws.EncodeShape

/-- The width of a stream row's field in bits (30_encoding.md R92, R95 to R98); a host row has none. -/
def fieldWidth : Instr → Option Nat
  | .term => some 4
  | .num => some 4
  | .alnum => some 4
  | .byte => some 4
  | .unsup0011 => some 4
  | .unsup0101 => some 4
  | .unsup0110 => some 4
  | .unsup0111 => some 4
  | .unsup1000 => some 4
  | .unsup1001 => some 4
  | .unsup1010 => some 4
  | .unsup1011 => some 4
  | .unsup1100 => some 4
  | .unsup1101 => some 4
  | .unsup1110 => some 4
  | .unsup1111 => some 4
  | .eos => some 0
  | .lenNumB1 _ => some 10
  | .lenNumB2 _ => some 12
  | .lenNumB3 _ => some 14
  | .lenAlnumB1 _ => some 9
  | .lenAlnumB2 _ => some 11
  | .lenAlnumB3 _ => some 13
  | .lenByteB1 _ => some 8
  | .lenByteB2 _ => some 16
  | .lenByteB3 _ => some 16
  | .lenBadVersion => some 0
  | .n3 _ => some 10
  | .n2 _ => some 7
  | .n1 _ => some 4
  | .a2 _ => some 11
  | .a1 _ => some 6
  | .b8 _ => some 8
  | .start _ => none
  | .clear _ _ => none
  | .ctrlNop _ => none
  | .wrVersion _ => none
  | .wrInLen _ => none
  | .wrIntEn _ => none
  | .wrRegIgnored _ _ => none
  | .rdReg _ => none
  | .wrIn _ _ _ => none
  | .rdIn _ _ => none
  | .rdOut _ _ => none
  | .wrOut _ _ _ => none
  | .busErrMisalignedA1 _ => none
  | .busErrMisalignedA2 _ => none
  | .busErrMisalignedA3 _ => none
  | .busErrReg8 _ => none
  | .busErrUnmapped0040 _ => none
  | .busErrUnmapped0080 _ => none
  | .busErrUnmapped0100 _ => none
  | .busErrUnmapped0200 _ => none
  | .busErrUnmapped0400 _ => none
  | .busErrUnmapped0800 _ => none
  | .busErrUnmapped1000 _ => none
  | .busErrUnmapped4000 _ => none

/-- A stream row is encoded by a field of its width, a host row by an access. -/
def Statement (i : Instr) : Prop :=
  match fieldWidth i with
  | some n => ∃ bits, encode i = .stream bits ∧ bits.length = n
  | none => ∃ acc, encode i = .bus acc

theorem term : Statement (.term) := ⟨_, rfl, toBits_length _ _⟩
theorem num : Statement (.num) := ⟨_, rfl, toBits_length _ _⟩
theorem alnum : Statement (.alnum) := ⟨_, rfl, toBits_length _ _⟩
theorem byte : Statement (.byte) := ⟨_, rfl, toBits_length _ _⟩
theorem unsup0011 : Statement (.unsup0011) := ⟨_, rfl, toBits_length _ _⟩
theorem unsup0101 : Statement (.unsup0101) := ⟨_, rfl, toBits_length _ _⟩
theorem unsup0110 : Statement (.unsup0110) := ⟨_, rfl, toBits_length _ _⟩
theorem unsup0111 : Statement (.unsup0111) := ⟨_, rfl, toBits_length _ _⟩
theorem unsup1000 : Statement (.unsup1000) := ⟨_, rfl, toBits_length _ _⟩
theorem unsup1001 : Statement (.unsup1001) := ⟨_, rfl, toBits_length _ _⟩
theorem unsup1010 : Statement (.unsup1010) := ⟨_, rfl, toBits_length _ _⟩
theorem unsup1011 : Statement (.unsup1011) := ⟨_, rfl, toBits_length _ _⟩
theorem unsup1100 : Statement (.unsup1100) := ⟨_, rfl, toBits_length _ _⟩
theorem unsup1101 : Statement (.unsup1101) := ⟨_, rfl, toBits_length _ _⟩
theorem unsup1110 : Statement (.unsup1110) := ⟨_, rfl, toBits_length _ _⟩
theorem unsup1111 : Statement (.unsup1111) := ⟨_, rfl, toBits_length _ _⟩
theorem eos : Statement (.eos) := ⟨_, rfl, rfl⟩
theorem lenNumB1 (l : BitVec 10) : Statement (.lenNumB1 l) := ⟨_, rfl, toBits_length _ _⟩
theorem lenNumB2 (l : BitVec 12) : Statement (.lenNumB2 l) := ⟨_, rfl, toBits_length _ _⟩
theorem lenNumB3 (l : BitVec 14) : Statement (.lenNumB3 l) := ⟨_, rfl, toBits_length _ _⟩
theorem lenAlnumB1 (l : BitVec 9) : Statement (.lenAlnumB1 l) := ⟨_, rfl, toBits_length _ _⟩
theorem lenAlnumB2 (l : BitVec 11) : Statement (.lenAlnumB2 l) := ⟨_, rfl, toBits_length _ _⟩
theorem lenAlnumB3 (l : BitVec 13) : Statement (.lenAlnumB3 l) := ⟨_, rfl, toBits_length _ _⟩
theorem lenByteB1 (l : BitVec 8) : Statement (.lenByteB1 l) := ⟨_, rfl, toBits_length _ _⟩
theorem lenByteB2 (l : BitVec 16) : Statement (.lenByteB2 l) := ⟨_, rfl, toBits_length _ _⟩
theorem lenByteB3 (l : BitVec 16) : Statement (.lenByteB3 l) := ⟨_, rfl, toBits_length _ _⟩
theorem lenBadVersion : Statement (.lenBadVersion) := ⟨_, rfl, rfl⟩
theorem n3 (v : BitVec 10) : Statement (.n3 v) := ⟨_, rfl, toBits_length _ _⟩
theorem n2 (v : BitVec 7) : Statement (.n2 v) := ⟨_, rfl, toBits_length _ _⟩
theorem n1 (v : BitVec 4) : Statement (.n1 v) := ⟨_, rfl, toBits_length _ _⟩
theorem a2 (v : BitVec 11) : Statement (.a2 v) := ⟨_, rfl, toBits_length _ _⟩
theorem a1 (v : BitVec 6) : Statement (.a1 v) := ⟨_, rfl, toBits_length _ _⟩
theorem b8 (v : BitVec 8) : Statement (.b8 v) := ⟨_, rfl, toBits_length _ _⟩
theorem start (hi : BitVec 30) : Statement (.start hi) := ⟨_, rfl⟩
theorem clear (lo : BitVec 1) (hi : BitVec 30) : Statement (.clear lo hi) := ⟨_, rfl⟩
theorem ctrlNop (hi : BitVec 30) : Statement (.ctrlNop hi) := ⟨_, rfl⟩
theorem wrVersion (v : Word) : Statement (.wrVersion v) := ⟨_, rfl⟩
theorem wrInLen (v : Word) : Statement (.wrInLen v) := ⟨_, rfl⟩
theorem wrIntEn (v : Word) : Statement (.wrIntEn v) := ⟨_, rfl⟩
theorem wrRegIgnored (r : BitVec 4) (v : Word) : Statement (.wrRegIgnored r v) := ⟨_, rfl⟩
theorem rdReg (r : BitVec 4) : Statement (.rdReg r) := ⟨_, rfl⟩
theorem wrIn (n : BusWidth) (j : BitVec 13) (v : Word) : Statement (.wrIn n j v) := ⟨_, rfl⟩
theorem rdIn (n : BusWidth) (j : BitVec 13) : Statement (.rdIn n j) := ⟨_, rfl⟩
theorem rdOut (n : BusWidth) (j : BitVec 15) : Statement (.rdOut n j) := ⟨_, rfl⟩
theorem wrOut (n : BusWidth) (j : BitVec 15) (v : Word) : Statement (.wrOut n j v) := ⟨_, rfl⟩
theorem busErrMisalignedA1 (acc : HostAccess) : Statement (.busErrMisalignedA1 acc) := ⟨_, rfl⟩
theorem busErrMisalignedA2 (acc : HostAccess) : Statement (.busErrMisalignedA2 acc) := ⟨_, rfl⟩
theorem busErrMisalignedA3 (acc : HostAccess) : Statement (.busErrMisalignedA3 acc) := ⟨_, rfl⟩
theorem busErrReg8 (acc : HostAccess) : Statement (.busErrReg8 acc) := ⟨_, rfl⟩
theorem busErrUnmapped0040 (acc : HostAccess) : Statement (.busErrUnmapped0040 acc) := ⟨_, rfl⟩
theorem busErrUnmapped0080 (acc : HostAccess) : Statement (.busErrUnmapped0080 acc) := ⟨_, rfl⟩
theorem busErrUnmapped0100 (acc : HostAccess) : Statement (.busErrUnmapped0100 acc) := ⟨_, rfl⟩
theorem busErrUnmapped0200 (acc : HostAccess) : Statement (.busErrUnmapped0200 acc) := ⟨_, rfl⟩
theorem busErrUnmapped0400 (acc : HostAccess) : Statement (.busErrUnmapped0400 acc) := ⟨_, rfl⟩
theorem busErrUnmapped0800 (acc : HostAccess) : Statement (.busErrUnmapped0800 acc) := ⟨_, rfl⟩
theorem busErrUnmapped1000 (acc : HostAccess) : Statement (.busErrUnmapped1000 acc) := ⟨_, rfl⟩
theorem busErrUnmapped4000 (acc : HostAccess) : Statement (.busErrUnmapped4000 acc) := ⟨_, rfl⟩

end Sys2Proof.Laws.EncodeShape
end

