-- ==== Sys2Proof/Laws/Step.lean ====
section
/-! SUPPORT. What one step can do, said once: a core step, a host access, a reset, or a wait. Every claim about `step` is a
case analysis of StepCases. -/

namespace Sys2Proof.Machine

/-- With no event pending there is none to take. -/
theorem State.popped_of_nil {s : State} (h : s.pending = []) : s.popped = s := by
  cases s
  subst h
  rfl

theorem State.popped_of_cons {s : State} {e : Event} {rest : List Event} (h : s.pending = e :: rest) :
    s.popped = { s with pending := rest } := by
  rw [State.popped, h]
  rfl

@[simp] theorem State.popped_ctx (s : State) : s.popped.ctx = s.ctx := rfl
@[simp] theorem State.popped_nextBits (s : State) : s.popped.nextBits = s.nextBits := rfl

/-- The core's turn comes when the core is the next to move. -/
theorem State.nextTurn_of_coreNext {s : State} (h : s.coreNext) : s.nextTurn = s.popped.coreTurn := by
  obtain ⟨_, _, h | ⟨rest, h⟩⟩ := h
  · rw [State.popped_of_nil h, State.nextTurn, h]
  · rw [State.popped_of_cons h, State.nextTurn, h]

/-- A step of the core, by what the element at OFFSET decodes to. -/
theorem step_core {s : State} (h : s.coreNext) : step s = match decodeStream s.ctx s.nextBits with
    | .ok i => exec i s.popped
    | .error r => .fault (stuckFault r) := by
  rw [step, if_pos h.1, State.nextTurn_of_coreNext h, State.coreTurn, if_pos (show s.popped.st = .busy from h.2.1)]
  rw [State.popped_ctx, State.popped_nextBits]
  cases decodeStream s.ctx s.nextBits <;> rfl

/-- A step that is a host access. -/
theorem step_bus {s : State} {acc : HostAccess} {rest : List Event} (h : s.cfg.legal = true)
    (hp : s.pending = .bus acc :: rest) : step s = exec (decodeAccess acc) s.popped := by
  rw [step, if_pos h, State.popped_of_cons hp, State.nextTurn, hp]

/-- A core step with a next state has an effect of the core. -/
theorem step_coreEffect {s t : State} (h : s.coreNext) (hs : step s = .next t) : CoreEffect s.popped t := by
  rw [step_core h] at hs
  cases hd : decodeStream s.ctx s.nextBits with
  | ok i =>
    obtain ⟨u, hu, he⟩ := exec_coreEffect (s := s.popped) (i := i) hd
    simp only [hd, hu] at hs
    cases hs
    exact he
  | error r =>
    simp only [hd] at hs
    cases hs

/-- All a step with a next state can be. -/
inductive StepCases (s t : State) : Prop
  | core : s.coreNext → CoreEffect s.popped t → StepCases s t
  | bus (acc : HostAccess) (rest : List Event) : s.pending = .bus acc :: rest → HostEffect acc s.popped t → StepCases s t
  | rst (rest : List Event) : s.pending = .rst :: rest → t = s.popped.rstOp → StepCases s t
  | wait : s.st ≠ .busy → (s.pending = [] ∨ ∃ rest, s.pending = .core :: rest) → t = s.popped → StepCases s t

/-- THE STEP. -/
theorem step_cases {s t : State} (hs : step s = .next t) : StepCases s t := by
  by_cases hl : s.cfg.legal = true
  swap
  · rw [step, if_neg hl] at hs
    cases hs
  by_cases hp : s.pending = [] ∨ ∃ rest, s.pending = .core :: rest
  · by_cases hb : s.st = .busy
    · have hc : s.coreNext := ⟨hl, hb, hp⟩
      exact .core hc (step_coreEffect hc hs)
    · refine .wait hb hp ?_
      have hn : s.nextTurn = s.popped.coreTurn := by
        rcases hp with h | ⟨rest, h⟩
        · rw [State.popped_of_nil h, State.nextTurn, h]
        · rw [State.popped_of_cons h, State.nextTurn, h]
      rw [step, if_pos hl, hn, State.coreTurn, if_neg (show ¬ s.popped.st = .busy from hb)] at hs
      cases hs
      rfl
  · cases hq : s.pending with
    | nil => exact absurd (.inl hq) hp
    | cons e rest =>
      cases e with
      | core => exact absurd (.inr ⟨rest, hq⟩) hp
      | bus acc =>
        rw [step_bus hl hq] at hs
        obtain ⟨u, hu, he⟩ := exec_hostEffect acc s.popped
        rw [hu] at hs
        cases hs
        exact .bus acc rest hq he
      | rst =>
        refine .rst rest hq ?_
        rw [step, if_pos hl, State.nextTurn, hq] at hs
        cases hs
        rw [State.popped_of_cons hq]

end Sys2Proof.Machine
end

