-- ==== Sys2Proof/Tests/Slice0.lean ====
section
/-! SUPPORT. Tests of the model, each on fixed values with its source named: the well-formedness checks, the decoder on words
written out from spec/30_encoding.md and spec/opcode_table.json, one step of every instruction on the vectors of
spec/95_test_vectors.md, and for every obligation with hypotheses a witness that meets them. -/

namespace Sys2Proof.Tests

open Sys2Proof.Machine

/-! ## Helpers -/

/-- Consecutive bytes as cells of a buffer. -/
def cells : Nat → List Byte → Memory
  | _, [] => []
  | a, b :: bs => (a, b) :: cells (a + 1) bs

/-- An outcome is a next state of which `p` holds. -/
def onNext (o : Host.Outcome State Fault Refusal) (p : State → Bool) : Bool :=
  match o with
  | .next t => p t
  | .fault _ => false
  | .refused _ => false

theorem exists_of_onNext {o : Host.Outcome State Fault Refusal} {p : State → Bool} (h : onNext o p = true) :
    ∃ t, o = .next t ∧ p t = true := by
  cases o with
  | next t => exact ⟨t, rfl, h⟩
  | fault r => exact absurd h (by simp [onNext])
  | refused r => exact absurd h (by simp [onNext])

/-- A state with a stream loaded, its bytes all written, at version 1, before START. -/
def loaded (bytes : List Byte) : State :=
  { State.reset with inMem := cells 0 bytes, inLen := BitVec.ofNat 16 bytes.length, version := 1#8 }

/-- A BUSY state at a tag, at bit `off`. -/
def atTag (off : Nat) (bytes : List Byte) : State :=
  { loaded bytes with st := .busy, offset := BitVec.ofNat 16 off, reached := [BitVec.ofNat 16 off, 0#16] }

/-- A BUSY state at a length field. -/
def atLen (m : Mode) (v : BitVec 8) (off : Nat) (bytes : List Byte) : State :=
  { atTag off bytes with phase := .segLen, mode := m, version := v }

/-- A BUSY state at a group. -/
def atBody (m : Mode) (rem off : Nat) (bytes : List Byte) : State :=
  { atTag off bytes with phase := .segBody, mode := m, rem := BitVec.ofNat 16 rem }

/-- The same with NUMERIC_OVERRANGE = FAULT. -/
def faulting (s : State) : State := { s with cfg := { s.cfg with numOvr := .fault } }

/-- The same with a full output buffer. -/
def full (s : State) : State := { s with outPtr := 16384#16 }

/-- The same with room for three bytes. -/
def almostFull (s : State) : State := { s with outPtr := 16381#16 }

/-- A state in DONE_OK whose output is `out`. -/
def done (out : List Byte) : State :=
  { loaded [0x10#8] with st := .doneOk, outMem := cells 0 out, outPtr := BitVec.ofNat 16 out.length, offset := 28#16 }

/-- A state in DONE_ERR. -/
def failed : State :=
  { loaded [0x10#8] with st := .doneErr, errCode := .insufficientBits, errInfo := 10#16, offset := 4#16, phase := .segLen }

/-- The state with a host access next. -/
def withBus (acc : HostAccess) (s : State) : State := { s with pending := [.bus acc] }

/-- The response and nothing else. -/
def answers (r : Response) (s : State) (o : Host.Outcome State Fault Refusal) : Bool :=
  onNext o (fun t => decide (t = { s with resp := some r }))

/-! ## Well-formedness: each check refuses an ill-formed term -/

theorem test_wf_refuses_writable_register :
    (Instr.wrRegIgnored 0#4 0#32).wf = false ∧ (Instr.wrRegIgnored 2#4 0#32).wf = false ∧
      (Instr.wrRegIgnored 3#4 0#32).wf = false ∧ (Instr.wrRegIgnored 8#4 0#32).wf = false ∧ (Instr.wrRegIgnored 1#4 0#32).wf = true := by
  decide

theorem test_wf_refuses_unaligned_window_access :
    (Instr.wrIn .w32 2#13 0#32).wf = false ∧ (Instr.rdIn .w32 1#13).wf = false ∧ (Instr.rdOut .w32 3#15).wf = false ∧
      (Instr.wrOut .w32 2#15 0#32).wf = false ∧ (Instr.rdOut .w8 3#15).wf = true := by
  decide

theorem test_wf_refuses_wrong_misalignment :
    (Instr.busErrMisalignedA1 (.read .w32 0x2002#16)).wf = false ∧ (Instr.busErrMisalignedA2 (.read .w32 0x2000#16)).wf = false ∧
      (Instr.busErrMisalignedA3 (.read .w8 0x2003#16)).wf = false := by
  decide

theorem test_wf_refuses_wide_register_access : (Instr.busErrReg8 (.read .w32 0x0004#16)).wf = false := by decide

theorem test_wf_refuses_address_outside_its_range :
    (Instr.busErrUnmapped0040 (.read .w8 0x0080#16)).wf = false ∧ (Instr.busErrUnmapped0080 (.read .w8 0x0100#16)).wf = false ∧
      (Instr.busErrUnmapped0100 (.read .w8 0x0200#16)).wf = false ∧ (Instr.busErrUnmapped0200 (.read .w8 0x0400#16)).wf = false ∧
      (Instr.busErrUnmapped0400 (.read .w8 0x0800#16)).wf = false ∧ (Instr.busErrUnmapped0800 (.read .w8 0x1000#16)).wf = false ∧
      (Instr.busErrUnmapped1000 (.read .w8 0x2000#16)).wf = false ∧ (Instr.busErrUnmapped4000 (.read .w8 0x8000#16)).wf = false := by
  decide

theorem test_wf_refuses_misaligned_unmapped : (Instr.busErrUnmapped4000 (.read .w32 0x4001#16)).wf = false := by decide

/-! ## Decoding: words written out bit by bit from 30_encoding.md R92, R95 to R98, R107 and the opcode table -/

/-- Every tag of R92 and R101, the tag in the high nibble of the first byte. -/
theorem test_decode_tags :
    [0b0000#4, 0b0001#4, 0b0010#4, 0b0011#4, 0b0100#4, 0b0101#4, 0b0110#4, 0b0111#4].map
        (fun t => (decodeBytes ⟨.dispatch, .num, 0#16, 0#8⟩ [t ++ 0b1111#4]).toOption) =
      [some .term, some .num, some .alnum, some .unsup0011, some .byte, some .unsup0101, some .unsup0110, some .unsup0111] ∧
    [0b1000#4, 0b1001#4, 0b1010#4, 0b1011#4, 0b1100#4, 0b1101#4, 0b1110#4, 0b1111#4].map
        (fun t => (decodeBytes ⟨.dispatch, .num, 0#16, 0#8⟩ [t ++ 0b0000#4]).toOption) =
      [some .unsup1000, some .unsup1001, some .unsup1010, some .unsup1011, some .unsup1100, some .unsup1101, some .unsup1110,
       some .unsup1111] := by
  decide

/-- EOS: 0 to 3 bits left (R142). -/
theorem test_decode_end_of_stream :
    (decodeStream ⟨.dispatch, .num, 0#16, 1#8⟩ []).toOption = some .eos ∧
      (decodeStream ⟨.dispatch, .num, 0#16, 1#8⟩ [true, true, true]).toOption = some .eos ∧
      (decodeStream ⟨.dispatch, .num, 0#16, 1#8⟩ [true, true, true, true]).toOption = some .unsup1111 := by
  decide

/-- The nine length fields of R95, each a pattern that is not its own mirror image. -/
theorem test_decode_lengths :
    (decodeBytes ⟨.segLen, .num, 0#16, 9#8⟩ [0b10000000#8, 0b01111111#8]).toOption = some (.lenNumB1 0b1000000001#10) ∧
    (decodeBytes ⟨.segLen, .num, 0#16, 10#8⟩ [0b11000000#8, 0b00011111#8]).toOption = some (.lenNumB2 0b110000000001#12) ∧
    (decodeBytes ⟨.segLen, .num, 0#16, 27#8⟩ [0b11100000#8, 0b00000111#8]).toOption = some (.lenNumB3 0b11100000000001#14) ∧
    (decodeBytes ⟨.segLen, .alnum, 0#16, 1#8⟩ [0b10000000#8, 0b11111111#8]).toOption = some (.lenAlnumB1 0b100000001#9) ∧
    (decodeBytes ⟨.segLen, .alnum, 0#16, 26#8⟩ [0b11000000#8, 0b00111111#8]).toOption = some (.lenAlnumB2 0b11000000001#11) ∧
    (decodeBytes ⟨.segLen, .alnum, 0#16, 40#8⟩ [0b11100000#8, 0b00001111#8]).toOption = some (.lenAlnumB3 0b1110000000001#13) ∧
    (decodeBytes ⟨.segLen, .byte, 0#16, 1#8⟩ [0b11000001#8, 0b11111111#8]).toOption = some (.lenByteB1 0b11000001#8) ∧
    (decodeBytes ⟨.segLen, .byte, 0#16, 10#8⟩ [0b11000000#8, 0b00000001#8]).toOption = some (.lenByteB2 0b1100000000000001#16) ∧
    (decodeBytes ⟨.segLen, .byte, 0#16, 40#8⟩ [0b11000000#8, 0b00000001#8]).toOption = some (.lenByteB3 0b1100000000000001#16) ∧
    (decodeBytes ⟨.segLen, .byte, 0#16, 41#8⟩ [0b11000000#8]).toOption = some .lenBadVersion ∧
    (decodeBytes ⟨.segLen, .mode3, 0#16, 0#8⟩ []).toOption = some .lenBadVersion := by
  decide

/-- The groups of R96 to R98, at the counts of R106 where the width changes. -/
theorem test_decode_groups :
    (decodeBytes ⟨.segBody, .num, 3#16, 1#8⟩ [0b11000000#8, 0b01111111#8]).toOption = some (.n3 0b1100000001#10) ∧
    (decodeBytes ⟨.segBody, .num, 2#16, 1#8⟩ [0b11000011#8]).toOption = some (.n2 0b1100001#7) ∧
    (decodeBytes ⟨.segBody, .num, 1#16, 1#8⟩ [0b10011111#8]).toOption = some (.n1 0b1001#4) ∧
    (decodeBytes ⟨.segBody, .alnum, 2#16, 1#8⟩ [0b11000000#8, 0b00111111#8]).toOption = some (.a2 0b11000000001#11) ∧
    (decodeBytes ⟨.segBody, .alnum, 1#16, 1#8⟩ [0b11000111#8]).toOption = some (.a1 0b110001#6) ∧
    (decodeBytes ⟨.segBody, .byte, 65535#16, 1#8⟩ [0b11000001#8]).toOption = some (.b8 0b11000001#8) := by
  decide

/-- What has no row (93 U14, 10_state.md R25) is rejected by name. -/
theorem test_decode_rejects_by_name :
    decodeBytes ⟨.phase3, .num, 1#16, 1#8⟩ [0#8] = .error .phase3 ∧ decodeBytes ⟨.segLen, .mode3, 1#16, 1#8⟩ [0#8] = .error .mode3 ∧
      decodeBytes ⟨.segBody, .mode3, 1#16, 1#8⟩ [0#8] = .error .mode3 ∧
      decodeBytes ⟨.segBody, .num, 0#16, 1#8⟩ [0#8] = .error .emptyBody :=
  ⟨rfl, rfl, rfl, rfl⟩

/-- CTRL writes and register accesses (R107, 10_state.md R28). -/
theorem test_decode_register_accesses :
    decodeAccess (.write .w32 0x0000#16 0xFFFFFFFD#32) = .start 0x3FFFFFFF#30 ∧
    decodeAccess (.write .w32 0x0000#16 0x00000006#32) = .clear 0#1 1#30 ∧
    decodeAccess (.write .w32 0x0000#16 0x00000003#32) = .clear 1#1 0#30 ∧
    decodeAccess (.write .w32 0x0000#16 0xFFFFFFFC#32) = .ctrlNop 0x3FFFFFFF#30 ∧
    decodeAccess (.write .w32 0x0008#16 0x12345629#32) = .wrVersion 0x12345629#32 ∧
    decodeAccess (.write .w32 0x000C#16 0x00012000#32) = .wrInLen 0x00012000#32 ∧
    decodeAccess (.write .w32 0x0020#16 0x00000001#32) = .wrIntEn 1#32 ∧
    decodeAccess (.write .w32 0x0004#16 0x00000001#32) = .wrRegIgnored 1#4 1#32 ∧
    decodeAccess (.write .w32 0x003C#16 0x00000001#32) = .wrRegIgnored 15#4 1#32 ∧
    decodeAccess (.read .w32 0x001C#16) = .rdReg 7#4 := by
  decide

/-- Window accesses at the ends of the windows (20_memory.md R70). -/
theorem test_decode_window_accesses :
    decodeAccess (.write .w8 0x3FFF#16 0xAB#32) = .wrIn .w8 8191#13 0xAB#32 ∧
    decodeAccess (.read .w32 0x2000#16) = .rdIn .w32 0#13 ∧ decodeAccess (.read .w8 0x2001#16) = .rdIn .w8 1#13 ∧
    decodeAccess (.read .w8 0xFFFF#16) = .rdOut .w8 32767#15 ∧ decodeAccess (.read .w32 0x8004#16) = .rdOut .w32 4#15 ∧
    decodeAccess (.write .w32 0x8000#16 7#32) = .wrOut .w32 0#15 7#32 := by
  decide

/-- BUSERR rows, and that misalignment comes first (R107). -/
theorem test_decode_bus_errors :
    decodeAccess (.read .w32 0x8001#16) = .busErrMisalignedA1 (.read .w32 0x8001#16) ∧
    decodeAccess (.write .w32 0x0002#16 1#32) = .busErrMisalignedA2 (.write .w32 0x0002#16 1#32) ∧
    decodeAccess (.read .w32 0x4003#16) = .busErrMisalignedA3 (.read .w32 0x4003#16) ∧
    decodeAccess (.read .w8 0x003F#16) = .busErrReg8 (.read .w8 0x003F#16) ∧
    decodeAccess (.read .w8 0x0040#16) = .busErrUnmapped0040 (.read .w8 0x0040#16) ∧
    decodeAccess (.read .w32 0x00FC#16) = .busErrUnmapped0080 (.read .w32 0x00FC#16) ∧
    decodeAccess (.read .w8 0x01FF#16) = .busErrUnmapped0100 (.read .w8 0x01FF#16) ∧
    decodeAccess (.read .w8 0x0200#16) = .busErrUnmapped0200 (.read .w8 0x0200#16) ∧
    decodeAccess (.read .w8 0x07FF#16) = .busErrUnmapped0400 (.read .w8 0x07FF#16) ∧
    decodeAccess (.read .w8 0x0800#16) = .busErrUnmapped0800 (.read .w8 0x0800#16) ∧
    decodeAccess (.read .w32 0x1FFC#16) = .busErrUnmapped1000 (.read .w32 0x1FFC#16) ∧
    decodeAccess (.write .w8 0x7FFF#16 0#32) = .busErrUnmapped4000 (.write .w8 0x7FFF#16 0#32) := by
  decide

/-- Words numbered as spec/opcode_table.json numbers them, one or more of each width. -/
theorem test_decode_table_words :
    decodeTableWord 0 0 = some .eos ∧ decodeTableWord 4 0b0010 = some .alnum ∧ decodeTableWord 8 0b0100 = some .byte ∧
      decodeTableWord 10 3 = some (.lenNumB1 3#10) ∧ decodeTableWord 6 44 = some (.a1 44#6) ∧
      decodeTableWord 16 0x000C = some (.wrInLen 0#32) ∧ decodeTableWord 32 2 = some (.clear 0#1 0#30) ∧
      decodeTableWord 16 0x0003 = some (.busErrMisalignedA3 (.read .w32 3#16)) := by
  decide

/-! ## One step per instruction, with the vectors of 95_test_vectors.md -/

/-- V-S1, V-R10: tag 0001. -/
theorem test_step_num : onNext (step (atTag 0 [0x10#8, 0x0C#8, 0x7B#8, 0x00#8]))
    (fun t => t.mode == .num && t.phase == .segLen && t.offset == 4#16 && t.st == .busy) = true := by decide

/-- 41_dispatcher.md R145: IN_MEM[0] = 0x20. -/
theorem test_step_alnum : onNext (step (atTag 0 [0x20#8]))
    (fun t => t.mode == .alnum && t.phase == .segLen && t.offset == 4#16) = true := by decide

/-- 41_dispatcher.md R146: IN_MEM[0] = 0x40. -/
theorem test_step_byte : onNext (step (atTag 0 [0x40#8]))
    (fun t => t.mode == .byte && t.phase == .segLen && t.offset == 4#16) = true := by decide

/-- V-S8: the terminator stops decoding. -/
theorem test_step_term : onNext (step (atTag 0 [0x0F#8, 0xFF#8]))
    (fun t => t.st == .doneOk && t.offset == 4#16 && t.errCode == .none) = true := by decide

/-- V-D8: three bits left at a tag; and V-D1: an empty stream. -/
theorem test_step_eos :
    onNext (step (atTag 21 [0x10#8, 0x08#8, 0x67#8])) (fun t => t.st == .doneOk && t.offset == 21#16) = true ∧
      onNext (step (atTag 0 [])) (fun t => t.st == .doneOk && t.offset == 0#16) = true := by decide

/-- V-D5: the twelve illegal tags, by their bytes. -/
theorem test_step_unsupported_tags :
    [0x30#8, 0x50#8, 0x60#8, 0x70#8, 0x80#8, 0x90#8, 0xA0#8, 0xB0#8, 0xC0#8, 0xD0#8, 0xE0#8, 0xF0#8].all
      (fun b => onNext (step (atTag 0 [b]))
        (fun t => t.st == .doneErr && t.errCode == .unsupportedMode && t.errInfo == b.setWidth 16 >>> 4 && t.offset == 4#16)) = true := by
  decide

/-- V-S9: the widths 10, 12 and 14 of a numeric length, by the OFFSET after it. -/
theorem test_step_numeric_lengths :
    onNext (step (atLen .num 9#8 4 [0x10#8, 0x04#8, 0x40#8])) (fun t => t.rem == 1#16 && t.offset == 14#16 && t.phase == .segBody) = true ∧
    onNext (step (atLen .num 10#8 4 [0x10#8, 0x01#8, 0x10#8])) (fun t => t.rem == 1#16 && t.offset == 16#16) = true ∧
    onNext (step (atLen .num 40#8 4 [0x10#8, 0x00#8, 0x44#8, 0x00#8])) (fun t => t.rem == 1#16 && t.offset == 18#16) = true := by
  decide

/-- V-S9: 9, 11 and 13 for an alphanumeric length. -/
theorem test_step_alphanumeric_lengths :
    onNext (step (atLen .alnum 1#8 4 [0x20#8, 0x09#8, 0x40#8])) (fun t => t.rem == 1#16 && t.offset == 13#16) = true ∧
    onNext (step (atLen .alnum 26#8 4 [0x20#8, 0x02#8, 0x50#8, 0x00#8])) (fun t => t.rem == 1#16 && t.offset == 15#16) = true ∧
    onNext (step (atLen .alnum 27#8 4 [0x20#8, 0x00#8, 0x94#8, 0x00#8])) (fun t => t.rem == 1#16 && t.offset == 17#16) = true := by
  decide

/-- V-S9, V-B6: 8 and 16 for a byte length, with the largest count. -/
theorem test_step_byte_lengths :
    onNext (step (atLen .byte 1#8 4 [0x40#8, 0x14#8, 0x10#8])) (fun t => t.rem == 1#16 && t.offset == 12#16) = true ∧
    onNext (step (atLen .byte 10#8 4 [0x4F#8, 0xFF#8, 0xF4#8, 0x10#8])) (fun t => t.rem == 65535#16 && t.offset == 20#16) = true ∧
    onNext (step (atLen .byte 40#8 4 [0x40#8, 0x00#8, 0x14#8, 0x10#8])) (fun t => t.rem == 1#16 && t.offset == 20#16) = true := by
  decide

/-- V-D10: a length of 0 goes back to DISPATCH; V-S4: a length field that is short. -/
theorem test_step_empty_and_short_length :
    onNext (step (atLen .num 1#8 4 [0x10#8, 0x00#8])) (fun t => t.rem == 0#16 && t.phase == .dispatch && t.offset == 14#16) = true ∧
    onNext (step (atLen .num 1#8 4 [0x10#8]))
      (fun t => t.st == .doneErr && t.errCode == .insufficientBits && t.errInfo == 10#16 && t.offset == 4#16) = true := by
  decide

/-- V-S9 and V-D7: versions 0, 41 and 255, before the length is read. -/
theorem test_step_bad_version :
    [0#8, 41#8, 255#8].all (fun v => onNext (step (atLen .num v 4 [0x10#8]))
      (fun t => t.errCode == .unsupportedVersion && t.errInfo == v.setWidth 16 && t.offset == 4#16 && t.st == .doneErr)) = true := by
  decide

/-- V-S5: 007 keeps its zeros; V-N19: 1023 under FAULT. -/
theorem test_step_n3 :
    onNext (step (atBody .num 3 14 [0x10#8, 0x0C#8, 0x07#8, 0x00#8])) (fun t => t.outMem == cells 0 [0x30#8, 0x30#8, 0x37#8] &&
      t.outPtr == 3#16 && t.rem == 0#16 && t.phase == .dispatch && t.offset == 24#16) = true ∧
    onNext (step (faulting (atBody .num 3 14 [0x10#8, 0x0F#8, 0xFF#8, 0x00#8])))
      (fun t => t.errCode == .invalidNumericValue && t.errInfo == 0x33FF#16 && t.offset == 24#16 && t.outPtr == 0#16) = true := by
  decide

/-- V-N12 and V-N17: over range under WIDE, four digits, REM falls by three. -/
theorem test_step_n3_wide :
    onNext (step (atBody .num 3 14 [0x10#8, 0x0F#8, 0xFF#8, 0x00#8]))
      (fun t => t.outMem == cells 0 [0x31#8, 0x30#8, 0x32#8, 0x33#8] && t.outPtr == 4#16) = true ∧
    onNext (step (atBody .num 4 14 [0x10#8, 0x13#8, 0xE9#8, 0x20#8]))
      (fun t => t.outMem == cells 0 [0x31#8, 0x30#8, 0x30#8, 0x31#8] && t.rem == 1#16 && t.phase == .segBody) = true := by
  decide

/-- V-N3: 05; V-N21: 127 under FAULT. -/
theorem test_step_n2 :
    onNext (step (atBody .num 2 14 [0x10#8, 0x08#8, 0x28#8, 0x00#8]))
      (fun t => t.outMem == cells 0 [0x30#8, 0x35#8] && t.rem == 0#16 && t.phase == .dispatch && t.offset == 21#16) = true ∧
    onNext (step (faulting (atBody .num 2 14 [0x10#8, 0x0B#8, 0xF8#8, 0x00#8])))
      (fun t => t.errInfo == 0x207F#16 && t.offset == 21#16) = true := by
  decide

/-- V-N16: 15 under WIDE; V-N27: a single with two bits left. -/
theorem test_step_n1 :
    onNext (step (atBody .num 1 14 [0x10#8, 0x07#8, 0xC0#8]))
      (fun t => t.outMem == cells 0 [0x31#8, 0x35#8] && t.rem == 0#16 && t.offset == 18#16) = true ∧
    onNext (step (atBody .num 1 14 [0x10#8, 0x04#8]))
      (fun t => t.errCode == .insufficientBits && t.errInfo == 4#16 && t.offset == 14#16) = true := by
  decide

/-- V-A2: AB in this order; V-A4: 2025 is an error. -/
theorem test_step_a2 :
    onNext (step (atBody .alnum 2 13 [0x20#8, 0x11#8, 0xCD#8, 0x00#8]))
      (fun t => t.outMem == cells 0 [0x41#8, 0x42#8] && t.phase == .dispatch && t.offset == 24#16) = true ∧
    onNext (step (atBody .alnum 2 13 [0x20#8, 0x17#8, 0xE9#8, 0x00#8]))
      (fun t => t.errCode == .invalidAlphanumericValue && t.errInfo == 0x07E9#16 && t.offset == 24#16 && t.outMem == []) = true := by
  decide

/-- V-A9: index 44 is the colon; V-A10: index 45 is an error. -/
theorem test_step_a1 :
    onNext (step (atBody .alnum 1 13 [0x20#8, 0x0D#8, 0x80#8])) (fun t => t.outMem == cells 0 [0x3A#8] && t.rem == 0#16) = true ∧
    onNext (step (atBody .alnum 1 13 [0x20#8, 0x0D#8, 0xA0#8]))
      (fun t => t.errCode == .invalidAlphanumericValue && t.errInfo == 0x802D#16 && t.offset == 19#16) = true := by
  decide

/-- V-S7: the octet 0xFF off a byte boundary; V-B5: an octet with four bits left. -/
theorem test_step_b8 :
    onNext (step (atBody .byte 2 20 [0x40#8, 0x30#8, 0x0F#8, 0xF8#8, 0x00#8]))
      (fun t => t.outMem == cells 0 [0xFF#8] && t.rem == 1#16 && t.phase == .segBody && t.offset == 28#16) = true ∧
    onNext (step (atBody .byte 1 20 [0x40#8, 0x24#8, 0x10#8]))
      (fun t => t.errCode == .insufficientBits && t.errInfo == 8#16 && t.offset == 20#16) = true := by
  decide

/-- V-O1 and V-O2: Append. -/
theorem test_append :
    ((append [0x41#8, 0x42#8] id { State.reset with outPtr := 3#16 }).outMem = [(3, 0x41#8), (4, 0x42#8)]) ∧
    (append [0x41#8, 0x42#8] id { State.reset with outPtr := 3#16 }).outPtr = 5#16 ∧
    (append [0x41#8, 0x42#8] id { State.resetOf ⟨1, 4, .wide⟩ with outPtr := 3#16 }) =
      { State.resetOf ⟨1, 4, .wide⟩ with outPtr := 3#16, st := .doneErr, errCode := .outputOverflow } := by
  decide

/-- V-R1 to V-R4, and V-R6 to V-R9: ReadBits. -/
theorem test_read_bits :
    ((atTag 4 [0x20#8, 0x11#8]).readBits 9).1 = some 2#16 ∧ ((atTag 12 [0x12#8, 0x34#8, 0x56#8]).readBits 8).1 = some 0x45#16 ∧
    ((atTag 4 [0x12#8, 0x34#8, 0x56#8]).readBits 16).1 = some 0x2345#16 ∧ ((atTag 3 [0xFF#8, 0xFF#8, 0xFF#8]).readBits 16).1 = some 0xFFFF#16 ∧
    ((atTag 7 [0xA5#8]).readBits 1).2.offset = 8#16 ∧ (atTag 8 [0xA5#8]).readBits 1 = (none, atTag 8 [0xA5#8]) ∧
    ((atTag 5 [0xA5#8]).readBits 4).1 = none ∧ ((atTag 0 []).readBits 4).1 = none := by
  decide

/-- V-H16 and V-H12: START from DONE_OK begins again, while BUSY it does nothing. -/
theorem test_step_start :
    onNext (step (withBus (.write .w32 0#16 1#32) (done [0x31#8])))
      (fun t => t.st == .busy && t.offset == 0#16 && t.outPtr == 0#16 && t.resp == some (.write false)) = true ∧
    answers (.write false) (atTag 4 [0x10#8]) (step (withBus (.write .w32 0#16 1#32) (atTag 4 [0x10#8]))) = true := by
  decide

/-- V-H17 and V-H22: CLEAR with both bits in DONE_OK, and while BUSY. -/
theorem test_step_clear :
    onNext (step (withBus (.write .w32 0#16 3#32) (done [0x31#8])))
      (fun t => t.st == .idle && t.offset == 0#16 && t.outPtr == 0#16 && t.version == 1#8 && t.inLen == 1#16) = true ∧
    onNext (step (withBus (.write .w32 0#16 2#32) (atBody .num 3 14 [0x10#8, 0x0C#8])))
      (fun t => t.st == .idle && t.phase == .dispatch && t.rem == 0#16 && t.errCode == .none) = true := by
  decide

/-- V-H20: a CTRL write with bits 1:0 = 00. -/
theorem test_step_ctrl_nop :
    answers (.write false) failed (step (withBus (.write .w32 0#16 0xFFFFFFFC#32) failed)) = true := by decide

/-- V-H5, and V-H12: VERSION, dropped while BUSY. -/
theorem test_step_wr_version :
    onNext (step (withBus (.write .w32 8#16 0x12345629#32) State.reset)) (fun t => t.version == 0x29#8) = true ∧
    answers (.write false) (atTag 0 [0x10#8]) (step (withBus (.write .w32 8#16 7#32) (atTag 0 [0x10#8]))) = true := by decide

/-- V-H3, and V-H12: IN_LEN, clamped, dropped while BUSY. -/
theorem test_step_wr_in_len :
    onNext (step (withBus (.write .w32 12#16 0x00012000#32) State.reset)) (fun t => t.inLen == 4096#16) = true ∧
    answers (.write false) (atTag 0 [0x10#8]) (step (withBus (.write .w32 12#16 0#32) (atTag 0 [0x10#8]))) = true := by decide

/-- 10_state.md R38: IE is written while BUSY; V-H15: the line falls. -/
theorem test_step_wr_int_en :
    onNext (step (withBus (.write .w32 0x20#16 1#32) (atTag 0 [0x10#8]))) (fun t => t.ie) = true ∧
    onNext (step (withBus (.write .w32 0x20#16 0xFFFFFFFE#32) { done [] with ie := true })) (fun t => !t.irq && t.st == .doneOk) = true := by
  decide

/-- 10_state.md R31, R39: read-only and reserved registers ignore writes. -/
theorem test_step_wr_ignored :
    [4#16, 0x10#16, 0x1C#16, 0x24#16, 0x3C#16].all (fun a =>
      answers (.write false) failed (step (withBus (.write .w32 a 0xFFFFFFFF#32) failed))) = true := by decide

/-- V-H2 and V-H18: the capability registers, and the registers after an error with IE = 1. -/
theorem test_step_rd_reg :
    [(0x24#16, 0x1000#32), (0x28#16, 0x4000#32), (0x2C#16, 0#32), (0x30#16, 0#32)].all (fun p =>
      answers (.read p.2 false) State.reset (step (withBus (.read .w32 p.1) State.reset))) = true ∧
    [(0#16, 0#32), (4#16, 7#32), (8#16, 1#32), (0xC#16, 1#32), (0x10#16, 0#32), (0x14#16, 2#32), (0x18#16, 10#32), (0x1C#16, 4#32),
      (0x20#16, 1#32)].all (fun p =>
      answers (.read p.2 false) { failed with ie := true } (step (withBus (.read .w32 p.1) { failed with ie := true }))) = true := by
  decide

/-- V-H6 and V-H8: little-endian stores, and bytes past IN_CAP dropped. -/
theorem test_step_wr_in :
    onNext (step (withBus (.write .w32 0x2000#16 0x007B0C10#32) State.reset))
      (fun t => t.inMem == cells 0 [0x10#8, 0x0C#8, 0x7B#8, 0x00#8] && t.inLen == 0#16) = true ∧
    onNext (step (withBus (.write .w32 0x2000#16 0x44332211#32) { State.reset with cfg := ⟨2, 7, .wide⟩ }))
      (fun t => t.inMem == cells 0 [0x11#8, 0x22#8]) = true := by
  decide

/-- V-H6 and V-H8: reads of the IN window. -/
theorem test_step_rd_in :
    answers (.read 0x007B0C10#32 false) (loaded [0x10#8, 0x0C#8, 0x7B#8, 0x00#8])
      (step (withBus (.read .w32 0x2000#16) (loaded [0x10#8, 0x0C#8, 0x7B#8, 0x00#8]))) = true ∧
    answers (.read 0#32 false) State.reset (step (withBus (.read .w32 0x3000#16) State.reset)) = true := by
  decide

/-- V-H13, V-H11 and V-H10: the OUT window, gated. -/
theorem test_step_rd_out :
    answers (.read 0x00333231#32 false) (done [0x31#8, 0x32#8, 0x33#8])
      (step (withBus (.read .w32 0x8000#16) (done [0x31#8, 0x32#8, 0x33#8]))) = true ∧
    answers (.read 0#32 false) { done [0x31#8] with st := .busy } (step (withBus (.read .w8 0x8000#16) { done [0x31#8] with st := .busy })) = true := by
  decide

/-- V-H14: a write to the OUT window. -/
theorem test_step_wr_out :
    answers (.write false) (done [0x31#8]) (step (withBus (.write .w32 0x8000#16 0xFFFFFFFF#32) (done [0x31#8]))) = true := by decide

/-- V-H9 and R250: bus errors, one of each row. -/
theorem test_step_bus_errors :
    [0x2001#16, 0x0002#16, 0x8003#16, 0x0040#16, 0x0080#16, 0x0100#16, 0x0200#16, 0x0400#16, 0x0800#16, 0x1FFC#16, 0x4000#16].all (fun a =>
      answers (.read 0#32 true) failed (step (withBus (.read .w32 a) failed)) &&
      answers (.write true) failed (step (withBus (.write .w32 a 1#32) failed))) = true ∧
    answers (.read 0#32 true) failed (step (withBus (.read .w8 0x0004#16) failed)) = true := by
  decide

/-- 70_reset_and_hazards.md R300, R309: rst in the middle of a decode; no byte of IN_MEM counts as written any more. -/
theorem test_step_rst :
    onNext (step { atBody .num 3 14 [0x10#8, 0x0C#8] with pending := [.rst] })
      (fun t => t.st == .idle && t.rem == 0#16 && t.version == 0#8 && t.inLen == 0#16 && t.inMem == []) = true := by
  decide

/-- 70_reset_and_hazards.md R309: a byte written since rst is no draw; it is what was written. -/
theorem test_written_after_rst :
    ((State.reset.rstOp).inWindowWrite .w8 1 0xAB#32).inByte 1 = 0xAB#8 := by
  decide

/-- The stuck states (93 U14) and illegal parameters (93 U17) stop by name. -/
theorem test_stops :
    step { atTag 0 [0x10#8] with phase := .phase3 } = .fault .stuckPhase ∧ step (atLen .mode3 1#8 4 [0x10#8]) = .fault .stuckMode ∧
      step (atBody .num 0 4 [0x10#8]) = .fault .stuckBody ∧
      step { State.reset with cfg := ⟨8192, 32768, .wide⟩ } = .refused .illegalParameters :=
  ⟨rfl, rfl, rfl, rfl⟩

/-- A word placed after reset is what the next step runs: a tag, a length, a group, a CTRL write, an address. -/
theorem test_fetch_word :
    onNext (step (State.reset.withFetchWord 4 1)) (fun t => t.mode == .num && t.phase == .segLen) = true ∧
    onNext (step (State.reset.withFetchWord 10 3)) (fun t => t.rem == 3#16) = true ∧
    onNext (step (State.reset.withFetchWord 6 44)) (fun t => t.outMem == cells 0 [0x3A#8]) = true ∧
    onNext (step (State.reset.withFetchWord 32 1)) (fun t => t.st == .busy) = true ∧
    onNext (step (State.reset.withFetchWord 16 0x0024)) (fun t => t.resp == some (.write false)) = true := by
  decide

/-! ## Witnesses: concrete states and operands that meet the hypotheses of each obligation, clause by clause -/

theorem exists_next {o : Host.Outcome State Fault Refusal} {P : State → Prop} [DecidablePred P]
    (h : onNext o (fun t => decide (P t)) = true) : ∃ t, o = .next t ∧ P t := by
  obtain ⟨t, ht, hp⟩ := exists_of_onNext h
  exact ⟨t, ht, of_decide_eq_true hp⟩

/-- Scenario A of V-S1, and a stream with an over-range triple (V-N12). -/
def sceneA : List Byte := [0x10#8, 0x0C#8, 0x7B#8, 0x00#8]
def scene1023 : List Byte := [0x10#8, 0x0F#8, 0xFF#8, 0x00#8]

theorem good_tag : (atTag 0 sceneA).Good where
  legal := by decide
  inWf := by decide
  inBound := by decide
  outWf := by decide
  outBound := by decide
  inLenLe := by decide
  outPtrLe := by decide
  outWritten := by decide
  phaseLegal := by decide
  modeLegal := by decide
  offsetLe := by decide
  bodyRem := by decide
  room := by decide
  errIff := by decide
  errInfoZero := by decide
  noOverflow := by decide
  noNumericError := by decide
  reachedOffset := by decide
  reachedLe := fun _ => List.forall_mem_cons.mpr ⟨by decide, List.forall_mem_cons.mpr ⟨by decide, List.forall_mem_nil _⟩⟩
  floorReached := by decide

theorem good_length : (atLen .num 1#8 4 sceneA).Good where
  legal := by decide
  inWf := by decide
  inBound := by decide
  outWf := by decide
  outBound := by decide
  inLenLe := by decide
  outPtrLe := by decide
  outWritten := by decide
  phaseLegal := by decide
  modeLegal := by decide
  offsetLe := by decide
  bodyRem := by decide
  room := by decide
  errIff := by decide
  errInfoZero := by decide
  noOverflow := by decide
  noNumericError := by decide
  reachedOffset := by decide
  reachedLe := fun _ => List.forall_mem_cons.mpr ⟨by decide, List.forall_mem_cons.mpr ⟨by decide, List.forall_mem_nil _⟩⟩
  floorReached := by decide

theorem good_body : (atBody .num 3 14 sceneA).Good where
  legal := by decide
  inWf := by decide
  inBound := by decide
  outWf := by decide
  outBound := by decide
  inLenLe := by decide
  outPtrLe := by decide
  outWritten := by decide
  phaseLegal := by decide
  modeLegal := by decide
  offsetLe := by decide
  bodyRem := by decide
  room := by decide
  errIff := by decide
  errInfoZero := by decide
  noOverflow := by decide
  noNumericError := by decide
  reachedOffset := by decide
  reachedLe := fun _ => List.forall_mem_cons.mpr ⟨by decide, List.forall_mem_cons.mpr ⟨by decide, List.forall_mem_nil _⟩⟩
  floorReached := by decide

theorem good_body_wide : (atBody .num 3 14 scene1023).Good where
  legal := by decide
  inWf := by decide
  inBound := by decide
  outWf := by decide
  outBound := by decide
  inLenLe := by decide
  outPtrLe := by decide
  outWritten := by decide
  phaseLegal := by decide
  modeLegal := by decide
  offsetLe := by decide
  bodyRem := by decide
  room := by decide
  errIff := by decide
  errInfoZero := by decide
  noOverflow := by decide
  noNumericError := by decide
  reachedOffset := by decide
  reachedLe := fun _ => List.forall_mem_cons.mpr ⟨by decide, List.forall_mem_cons.mpr ⟨by decide, List.forall_mem_nil _⟩⟩
  floorReached := by decide


theorem witness_RstResetsFromAnyState :
    (atTag 4 [0x10#8]).cfg.legal = true ∧ ({ atTag 4 [0x10#8] with pending := [.rst] } : State).pending = .rst :: [] :=
  ⟨by decide, rfl⟩

theorem witness_DecodeOfEncodeIsTheInstruction :
    ((Instr.n3 1023#10).wf = true ∧ (⟨.segBody, .num, 3#16, 1#8⟩ : Ctx).selects (.n3 1023#10) = true) ∧
    (Instr.eos.wf = true ∧ (⟨.dispatch, .num, 0#16, 1#8⟩ : Ctx).selects .eos = true ∧ [true, true, true].length < 4) ∧
    (Instr.wrIn .w8 8191#13 1#32).wf = true := by
  decide

theorem witness_DecodedInstructionEncodesTheWords :
    decode ⟨.segBody, .num, 1#16, 1#8⟩ (.stream [true, false, false, true]) = .ok (.n1 9#4) ∧
    decode ⟨.segBody, .num, 1#16, 1#8⟩ (.stream [true, false, false]) = .ok (.n1 0#4) ∧
    decode ⟨.dispatch, .num, 1#16, 1#8⟩ (.bus (.read .w8 0#16)) = .ok (.busErrReg8 (.read .w8 0#16)) :=
  ⟨rfl, rfl, rfl⟩

theorem witness_VersionAndModeSelectTheLengthRow :
    (∀ v ∈ [1#8, 9#8], 1 ≤ v.toNat ∧ v.toNat ≤ 9) ∧ (∀ v ∈ [10#8, 26#8], 10 ≤ v.toNat ∧ v.toNat ≤ 26) ∧
    (∀ v ∈ [27#8, 40#8], 27 ≤ v.toNat ∧ v.toNat ≤ 40) ∧ (∀ v ∈ [0#8, 41#8, 255#8], v.toNat = 0 ∨ 41 ≤ v.toNat) := by
  decide

theorem coreNext_of_nil {s : State} (hl : s.cfg.legal = true) (hb : s.st = .busy) (hp : s.pending = []) : s.coreNext :=
  ⟨hl, hb, .inl hp⟩

theorem witness_StepRunsTheDecodedInstruction :
    ((atTag 0 sceneA).coreNext ∧ decode (atTag 0 sceneA).ctx (.stream (atTag 0 sceneA).nextBits) = .ok .num) ∧
    (State.reset.cfg.legal = true ∧ (withBus (.read .w32 4#16) State.reset).pending = .bus (.read .w32 4#16) :: [] ∧
      decode State.reset.ctx (.bus (.read .w32 4#16)) = .ok (.rdReg 1#4)) :=
  ⟨⟨coreNext_of_nil rfl rfl rfl, rfl⟩, rfl, rfl, rfl⟩

theorem witness_CoreHasNoStepOutsideBusy :
    (failed.cfg.legal = true ∧ failed.st ≠ .busy ∧ failed.pending = []) ∧
    ({ failed with pending := [.core] } : State).pending = .core :: [] := by
  decide

theorem witness_StepStopsExactlyInStuckStates :
    ((atBody .num 0 4 [0x10#8]).coreNext ∧ Pseudo.Stuck (atBody .num 0 4 [0x10#8])) ∧
    (({ atTag 0 [0x10#8] with phase := .phase3 } : State).coreNext) ∧ (⟨0, 0, .wide⟩ : Params).legal = false :=
  ⟨⟨coreNext_of_nil rfl rfl rfl, .inr (.inr ⟨rfl, .inr rfl⟩)⟩, coreNext_of_nil rfl rfl rfl, by decide⟩

/-- Widths 1 and 16, exhaustion by one bit, and a read that uses the buffer up. -/
theorem witness_ReadBitsReadsMostSignificantFirst :
    8 * (atTag 5 [0xA5#8]).inLen.toNat < (atTag 5 [0xA5#8]).offset.toNat + 4 ∧
    (atTag 7 [0xA5#8]).offset.toNat + 1 ≤ 8 * (atTag 7 [0xA5#8]).inLen.toNat ∧
    (atTag 0 [0xA5#8, 0x5A#8]).offset.toNat + 16 ≤ 8 * (atTag 0 [0xA5#8, 0x5A#8]).inLen.toNat := by
  decide

theorem witness_SegmentTagEntersTheSegment : ∀ p ∈ [(0x10#8, 1#16), (0x20#8, 2#16), (0x40#8, 4#16)],
    (atTag 0 [p.1]).Sized ∧ (atTag 0 [p.1]).coreNext ∧ (atTag 0 [p.1]).phase = .dispatch ∧ ((atTag 0 [p.1]).readBits 4).1 = some p.2 := by
  intro p h
  simp only [List.mem_cons, List.not_mem_nil, or_false] at h
  rcases h with h | h | h <;> subst h <;> exact ⟨⟨by decide, by decide⟩, coreNext_of_nil rfl rfl rfl, rfl, rfl⟩

/-- Four bits left that are 0000, three bits left, and no stream. -/
theorem witness_TermAndEndOfStreamFinish :
    ((atTag 4 [0xF0#8]).Sized ∧ (atTag 4 [0xF0#8]).coreNext ∧ ((atTag 4 [0xF0#8]).readBits 4).1 = some 0#16) ∧
    ((atTag 5 [0xF0#8]).Sized ∧ (atTag 5 [0xF0#8]).coreNext ∧ ((atTag 5 [0xF0#8]).readBits 4).1 = none) ∧
    ((atTag 0 []).Sized ∧ (atTag 0 []).coreNext ∧ ((atTag 0 []).readBits 4).1 = none) :=
  ⟨⟨⟨by decide, by decide⟩, coreNext_of_nil rfl rfl rfl, rfl⟩, ⟨⟨by decide, by decide⟩, coreNext_of_nil rfl rfl rfl, rfl⟩,
    ⟨by decide, by decide⟩, coreNext_of_nil rfl rfl rfl, rfl⟩

theorem witness_UnsupportedTagRaisesUnsupportedMode : ∀ p ∈ [(0x30#8, 3#16), (0xF0#8, 15#16)],
    (atTag 0 [p.1]).Sized ∧ (atTag 0 [p.1]).coreNext ∧ (atTag 0 [p.1]).phase = .dispatch ∧ ((atTag 0 [p.1]).readBits 4).1 = some p.2 := by
  intro p h
  simp only [List.mem_cons, List.not_mem_nil, or_false] at h
  rcases h with h | h <;> subst h <;> exact ⟨⟨by decide, by decide⟩, coreNext_of_nil rfl rfl rfl, rfl, rfl⟩

/-- The narrowest and the widest field, counts 0 and 65535, both using the buffer up. -/
theorem witness_LengthFieldLoadsRem :
    ((atLen .byte 1#8 0 [0x00#8]).Sized ∧ lengthRow (.lenByteB1 0#8) = some (8, 0) ∧
      (atLen .byte 1#8 0 [0x00#8]).offset.toNat + 8 ≤ 8 * (atLen .byte 1#8 0 [0x00#8]).inLen.toNat) ∧
    ((atLen .byte 40#8 0 [0xFF#8, 0xFF#8]).Sized ∧ lengthRow (.lenByteB3 65535#16) = some (16, 65535) ∧
      (atLen .byte 40#8 0 [0xFF#8, 0xFF#8]).offset.toNat + 16 ≤ 8 * (atLen .byte 40#8 0 [0xFF#8, 0xFF#8]).inLen.toNat) :=
  ⟨⟨⟨by decide, by decide⟩, rfl, by decide⟩, ⟨by decide, by decide⟩, rfl, by decide⟩

/-- One bit short of a 10-bit length and of each group; and a tag step that raises. -/
theorem witness_ShortReadRaisesInsufficientBits :
    (lengthRow (.lenNumB1 0#10) = some (10, 0) ∧
      ∀ p ∈ [(7, 10), (10, 7), (13, 4), (6, 11), (11, 6), (9, 8)],
        8 * (atTag p.1 [0x10#8, 0x0C#8]).inLen.toNat < (atTag p.1 [0x10#8, 0x0C#8]).offset.toNat + p.2) ∧
    ((atTag 0 [0x30#8]).coreNext ∧ (atTag 0 [0x30#8]).phase = .dispatch ∧ ∃ t, step (atTag 0 [0x30#8]) = .next t ∧ t.st = .doneErr) :=
  ⟨by decide, coreNext_of_nil rfl rfl rfl, rfl, exists_next (by decide)⟩

theorem witness_BadVersionRaisesUnsupportedVersion : ∀ v ∈ [0#8, 41#8, 255#8],
    (atLen .num v 4 [0x10#8]).coreNext ∧ (atLen .num v 4 [0x10#8]).phase = .segLen ∧
      ((atLen .num v 4 [0x10#8]).version.toNat = 0 ∨ 41 ≤ (atLen .num v 4 [0x10#8]).version.toNat) :=
  fun v h => ⟨coreNext_of_nil (show Params.default.legal = true by decide) rfl rfl, rfl, (by decide : ∀ v ∈ [0#8, 41#8, 255#8], v.toNat = 0 ∨ 41 ≤ v.toNat) v h⟩

theorem sized_body (m : Mode) (rem off : Nat) : (atBody m rem off sceneA).Sized :=
  ⟨show Params.default.legal = true by decide, show (4#16).toNat ≤ 4096 by decide⟩

/-- The largest values in range, the stream used up, and for the triple the output buffer filled exactly. -/
theorem witness_NumericGroupAppendsItsDigits :
    ((almostFull (atBody .num 3 22 sceneA)).Sized ∧ (almostFull (atBody .num 3 22 sceneA)).ctx.selects (.n3 999#10) = true ∧
      (999#10).toNat < 1000 ∧
      (almostFull (atBody .num 3 22 sceneA)).offset.toNat + 10 ≤ 8 * (almostFull (atBody .num 3 22 sceneA)).inLen.toNat ∧
      (almostFull (atBody .num 3 22 sceneA)).outPtr.toNat + 3 ≤ (almostFull (atBody .num 3 22 sceneA)).cfg.outCap) ∧
    ((atBody .num 2 25 sceneA).Sized ∧ (atBody .num 2 25 sceneA).ctx.selects (.n2 99#7) = true ∧ (99#7).toNat < 100 ∧
      (atBody .num 2 25 sceneA).offset.toNat + 7 ≤ 8 * (atBody .num 2 25 sceneA).inLen.toNat ∧
      (atBody .num 2 25 sceneA).outPtr.toNat + 2 ≤ (atBody .num 2 25 sceneA).cfg.outCap) ∧
    ((atBody .num 1 28 sceneA).Sized ∧ (atBody .num 1 28 sceneA).ctx.selects (.n1 9#4) = true ∧ (9#4).toNat < 10 ∧
      (atBody .num 1 28 sceneA).offset.toNat + 4 ≤ 8 * (atBody .num 1 28 sceneA).inLen.toNat ∧
      (atBody .num 1 28 sceneA).outPtr.toNat + 1 ≤ (atBody .num 1 28 sceneA).cfg.outCap) :=
  ⟨⟨sized_body .num 3 22, by decide⟩, ⟨sized_body _ _ _, by decide⟩, sized_body _ _ _, by decide⟩

/-- The smallest values over range. -/
theorem witness_OverrangeUnderWideAppendsAllDigits :
    ((atBody .num 3 22 sceneA).Sized ∧ (atBody .num 3 22 sceneA).cfg.numOvr = .wide ∧
      (atBody .num 3 22 sceneA).ctx.selects (.n3 1000#10) = true ∧ 1000 ≤ (1000#10).toNat ∧
      (atBody .num 3 22 sceneA).offset.toNat + 10 ≤ 8 * (atBody .num 3 22 sceneA).inLen.toNat ∧
      (atBody .num 3 22 sceneA).outPtr.toNat + 4 ≤ (atBody .num 3 22 sceneA).cfg.outCap) ∧
    ((atBody .num 2 25 sceneA).Sized ∧ (atBody .num 2 25 sceneA).cfg.numOvr = .wide ∧
      (atBody .num 2 25 sceneA).ctx.selects (.n2 100#7) = true ∧ 100 ≤ (100#7).toNat ∧
      (atBody .num 2 25 sceneA).offset.toNat + 7 ≤ 8 * (atBody .num 2 25 sceneA).inLen.toNat ∧
      (atBody .num 2 25 sceneA).outPtr.toNat + 3 ≤ (atBody .num 2 25 sceneA).cfg.outCap) ∧
    ((atBody .num 1 28 sceneA).Sized ∧ (atBody .num 1 28 sceneA).cfg.numOvr = .wide ∧
      (atBody .num 1 28 sceneA).ctx.selects (.n1 10#4) = true ∧ 10 ≤ (10#4).toNat ∧
      (atBody .num 1 28 sceneA).offset.toNat + 4 ≤ 8 * (atBody .num 1 28 sceneA).inLen.toNat ∧
      (atBody .num 1 28 sceneA).outPtr.toNat + 2 ≤ (atBody .num 1 28 sceneA).cfg.outCap) :=
  ⟨⟨sized_body _ _ _, by decide⟩, ⟨sized_body _ _ _, by decide⟩, sized_body _ _ _, by decide⟩

/-- A group over range of each of the three widths that REM selects. -/
theorem witness_OverrangeUnderFaultRaises :
    ((faulting (atBody .num 3 14 scene1023)).Sized ∧ (faulting (atBody .num 3 14 scene1023)).cfg.numOvr = .fault ∧
      1000 ≤ (1000#10).toNat ∧ 100 ≤ (100#7).toNat ∧ 10 ≤ (10#4).toNat ∧
      (faulting (atBody .num 3 14 scene1023)).offset.toNat + 10 ≤ 8 * (faulting (atBody .num 3 14 scene1023)).inLen.toNat) ∧
    ((faulting (atBody .num 3 14 scene1023)).coreNext ∧
      ∃ t, step (faulting (atBody .num 3 14 scene1023)) = .next t ∧ t.st = .doneErr ∧ t.errCode = .invalidNumericValue) ∧
    ((faulting (atBody .num 2 14 [0x10#8, 0x0B#8, 0xF8#8, 0x00#8])).coreNext ∧
      ∃ t, step (faulting (atBody .num 2 14 [0x10#8, 0x0B#8, 0xF8#8, 0x00#8])) = .next t ∧ t.st = .doneErr ∧
        t.errCode = .invalidNumericValue) ∧
    ((faulting (atBody .num 1 14 [0x10#8, 0x07#8, 0xC0#8])).coreNext ∧
      ∃ t, step (faulting (atBody .num 1 14 [0x10#8, 0x07#8, 0xC0#8])) = .next t ∧ t.st = .doneErr ∧
        t.errCode = .invalidNumericValue) :=
  ⟨⟨⟨by decide, by decide⟩, by decide⟩, ⟨coreNext_of_nil rfl rfl rfl, exists_next (by decide)⟩,
    ⟨coreNext_of_nil rfl rfl rfl, exists_next (by decide)⟩, coreNext_of_nil rfl rfl rfl, exists_next (by decide)⟩

theorem witness_AlphanumericGroupAppendsItsSymbols :
    ((atBody .alnum 2 21 sceneA).Sized ∧ (atBody .alnum 2 21 sceneA).ctx.selects (.a2 2024#11) = true ∧ (2024#11).toNat = 45 * 44 + 44 ∧
      (atBody .alnum 2 21 sceneA).offset.toNat + 11 ≤ 8 * (atBody .alnum 2 21 sceneA).inLen.toNat ∧
      (atBody .alnum 2 21 sceneA).outPtr.toNat + 2 ≤ (atBody .alnum 2 21 sceneA).cfg.outCap) ∧
    ((atBody .alnum 1 26 sceneA).ctx.selects (.a1 44#6) = true ∧ (44#6).toNat ≤ 44 ∧
      (atBody .alnum 1 26 sceneA).offset.toNat + 6 ≤ 8 * (atBody .alnum 1 26 sceneA).inLen.toNat ∧
      (atBody .alnum 1 26 sceneA).outPtr.toNat + 1 ≤ (atBody .alnum 1 26 sceneA).cfg.outCap) :=
  ⟨⟨sized_body _ _ _, by decide⟩, by decide⟩

theorem witness_BadAlphanumericValueRaises :
    (atBody .alnum 2 21 sceneA).Sized ∧
    (2025 ≤ (2025#11).toNat ∧ (atBody .alnum 2 21 sceneA).offset.toNat + 11 ≤ 8 * (atBody .alnum 2 21 sceneA).inLen.toNat) ∧
    (45 ≤ (45#6).toNat ∧ (atBody .alnum 2 21 sceneA).offset.toNat + 6 ≤ 8 * (atBody .alnum 2 21 sceneA).inLen.toNat) :=
  ⟨sized_body _ _ _, by decide⟩

theorem witness_OctetIsAppendedUnchanged :
    (atBody .byte 1 24 sceneA).Sized ∧ (atBody .byte 1 24 sceneA).ctx.selects (.b8 0xFF#8) = true ∧
      (atBody .byte 1 24 sceneA).offset.toNat + 8 ≤ 8 * (atBody .byte 1 24 sceneA).inLen.toNat ∧
      (atBody .byte 1 24 sceneA).outPtr.toNat + 1 ≤ (atBody .byte 1 24 sceneA).cfg.outCap :=
  ⟨sized_body _ _ _, by decide⟩

/-- A full output buffer; and one with room for three bytes, where a triple over range has four. -/
theorem witness_OutputThatDoesNotFitRaisesOverflow :
    ((full (atBody .num 3 14 sceneA)).Sized ∧
      (full (atBody .num 3 14 sceneA)).offset.toNat + 11 ≤ 8 * (full (atBody .num 3 14 sceneA)).inLen.toNat ∧
      (full (atBody .num 3 14 sceneA)).cfg.numOvr = .wide ∧
      (full (atBody .num 3 14 sceneA)).cfg.outCap < (full (atBody .num 3 14 sceneA)).outPtr.toNat + 1 ∧
      ((999#10).toNat < 1000 ∧ (99#7).toNat < 100 ∧ (9#4).toNat < 10 ∧ (2024#11).toNat < 2025 ∧ (44#6).toNat < 45) ∧
      (100 ≤ (100#7).toNat ∧ 10 ≤ (10#4).toNat)) ∧
    ((almostFull (atBody .num 3 14 scene1023)).Sized ∧ 1000 ≤ (1000#10).toNat ∧
      (almostFull (atBody .num 3 14 scene1023)).offset.toNat + 10 ≤ 8 * (almostFull (atBody .num 3 14 scene1023)).inLen.toNat ∧
      (almostFull (atBody .num 3 14 scene1023)).cfg.numOvr = .wide ∧
      (almostFull (atBody .num 3 14 scene1023)).cfg.outCap < (almostFull (atBody .num 3 14 scene1023)).outPtr.toNat + 4) :=
  ⟨⟨⟨by decide, by decide⟩, by decide⟩, ⟨by decide, by decide⟩, by decide⟩

/-- A group in range, and one over range under WIDE. -/
theorem witness_BodyStepMovesRemToOutPtr :
    ((atBody .num 3 14 sceneA).Good ∧ (atBody .num 3 14 sceneA).coreNext ∧ (atBody .num 3 14 sceneA).phase = .segBody ∧
      ((atBody .num 3 14 sceneA).readBits 10).1 = some 123#16 ∧ ∃ t, step (atBody .num 3 14 sceneA) = .next t ∧ t.st = .busy) ∧
    ((atBody .num 3 14 scene1023).Good ∧ (atBody .num 3 14 scene1023).coreNext ∧ (atBody .num 3 14 scene1023).phase = .segBody ∧
      ((atBody .num 3 14 scene1023).readBits 10).1 = some 1023#16 ∧ ∃ t, step (atBody .num 3 14 scene1023) = .next t ∧ t.st = .busy) :=
  ⟨⟨good_body, coreNext_of_nil rfl rfl rfl, rfl, by decide, exists_next (by decide)⟩,
    good_body_wide, coreNext_of_nil rfl rfl rfl, rfl, by decide, exists_next (by decide)⟩

theorem witness_StartBeginsADecode : (atTag 0 sceneA).st = .busy ∧ State.reset.st ≠ .busy ∧ failed.st ≠ .busy := by decide

theorem witness_CtrlWriteIsDecidedByTwoBits :
    ((2#32).getLsbD 1 = true ∧ (3#32).getLsbD 1 = true) ∧ ((0xFFFFFFFD#32).getLsbD 1 = false ∧ (0xFFFFFFFD#32).getLsbD 0 = true) ∧
    ((0xFFFFFFFC#32).getLsbD 1 = false ∧ (0xFFFFFFFC#32).getLsbD 0 = false) := by
  decide

theorem witness_RegisterWriteStoresItsField :
    (loaded sceneA).Sized ∧ (loaded sceneA).st ≠ .busy ∧ (atTag 0 sceneA).Sized ∧ (atTag 0 sceneA).st = .busy ∧
    (∀ r ∈ [1#4, 4#4, 5#4, 6#4, 7#4, 9#4, 15#4], (Instr.wrRegIgnored r 0#32).wf = true) :=
  ⟨⟨by decide, by decide⟩, by decide, ⟨by decide, by decide⟩, by decide⟩

theorem witness_RegisterReadReturnsItsValue :
    (failed.cfg.legal = true ∧ ¬ (7#4 = 7#4 ∧ failed.st = .busy)) ∧
    ((atTag 0 sceneA).cfg.legal = true ∧ ¬ (8#4 = 7#4 ∧ (atTag 0 sceneA).st = .busy)) := by
  decide

theorem witness_BitOffsetWhileBusyIsAMonotoneDraw :
    (atTag 4 sceneA).st = .busy ∧ (atTag 4 sceneA).readFloor ∈ (atTag 4 sceneA).reached := by decide

theorem witness_InWindowWriteStoresLittleEndian :
    (Instr.wrIn .w32 8188#13 1#32).wf = true ∧ (Instr.wrIn .w8 8191#13 1#32).wf = true := by decide

theorem witness_InWindowReadReturnsTheBytes : (Instr.rdIn .w32 8188#13).wf = true ∧ (Instr.rdIn .w8 8191#13).wf = true := by decide

theorem witness_OutWindowIsGatedAndReadOnly :
    (done [0x31#8]).outPtr.toNat ≤ (done [0x31#8]).cfg.outCap ∧ (Instr.rdOut .w32 32764#15).wf = true ∧
      (Instr.rdOut .w8 32767#15).wf = true ∧ (Instr.wrOut .w32 0#15 1#32).wf = true := by
  decide

theorem witness_BusErrorRowsChangeNothing :
    (Instr.busErrMisalignedA1 (.read .w32 0x0001#16)).wf = true ∧ (Instr.busErrMisalignedA2 (.read .w32 0xFFFE#16)).wf = true ∧
    (Instr.busErrMisalignedA3 (.write .w32 0x2003#16 0#32)).wf = true ∧ (Instr.busErrReg8 (.write .w8 0x003F#16 0#32)).wf = true ∧
    (Instr.busErrUnmapped0040 (.read .w8 0x0040#16)).wf = true ∧ (Instr.busErrUnmapped0080 (.read .w8 0x00FF#16)).wf = true ∧
    (Instr.busErrUnmapped0100 (.read .w32 0x0100#16)).wf = true ∧ (Instr.busErrUnmapped0200 (.read .w8 0x03FF#16)).wf = true ∧
    (Instr.busErrUnmapped0400 (.read .w8 0x0400#16)).wf = true ∧ (Instr.busErrUnmapped0800 (.read .w8 0x0FFF#16)).wf = true ∧
    (Instr.busErrUnmapped1000 (.read .w8 0x1FFF#16)).wf = true ∧ (Instr.busErrUnmapped4000 (.read .w8 0x7FFF#16)).wf = true := by
  decide

/-- The ends of every range, on both sides: what is an error and what is not. -/
theorem witness_BusErrorInExactlyTheListedCases :
    [0x0040#16, 0x1FFF#16, 0x4000#16, 0x7FFF#16, 0x0000#16, 0x003F#16].all (fun a =>
      onNext (exec (decodeAccess (.read .w8 a)) failed) (fun t => t.resp == some (.read 0#32 true))) = true ∧
    [0x2000#16, 0x3FFF#16, 0x8000#16, 0xFFFF#16].all (fun a =>
      onNext (exec (decodeAccess (.write .w8 a 0#32)) failed) (fun t => t.resp == some (.write false))) = true ∧
    [0x003D#16, 0x2002#16, 0xFFFF#16].all (fun a =>
      onNext (exec (decodeAccess (.read .w32 a)) failed) (fun t => t.resp == some (.read 0#32 true))) = true := by
  decide

theorem witness_CoreStepIsTheSpecsPseudocode :
    ((atTag 0 sceneA).coreNext ∧ ¬ Pseudo.Stuck (atTag 0 sceneA)) ∧
    ((atLen .num 1#8 4 sceneA).coreNext ∧ ¬ Pseudo.Stuck (atLen .num 1#8 4 sceneA)) ∧
    ((atBody .num 3 14 sceneA).coreNext ∧ ¬ Pseudo.Stuck (atBody .num 3 14 sceneA)) := by
  refine ⟨⟨coreNext_of_nil rfl rfl rfl, ?_⟩, ⟨coreNext_of_nil rfl rfl rfl, ?_⟩, coreNext_of_nil rfl rfl rfl, ?_⟩ <;>
    unfold Pseudo.Stuck <;> decide

theorem witness_HostReadIsTheSpecsMemRead :
    failed.cfg.legal = true ∧ ¬ (failed.st = .busy ∧ BusWidth.w32 = .w32 ∧ 0x1C#16 = 0x1C#16) := by decide

/-- The ends of the legal ranges of the parameters (00_scope.md R8). -/
theorem witness_ResetIsGood : (⟨1, 4, .fault⟩ : Params).legal = true ∧ (⟨8191, 26212, .wide⟩ : Params).legal = true ∧
    (⟨8191, 32768, .wide⟩ : Params).legal = true := by
  decide

theorem witness_StepKeepsGood : (atTag 0 sceneA).Good ∧ ∃ t, step (atTag 0 sceneA) = .next t ∧ t.phase = .segLen :=
  ⟨good_tag, exists_next (by decide)⟩

theorem witness_GoodStateNeverStops : (atTag 0 sceneA).Good := good_tag

/-- One step of each kind: no change, to DONE_OK, to DONE_ERR, to BUSY, to IDLE by CLEAR and by rst. -/
theorem witness_StateChangesOnlyAsListed :
    (∃ t, step (atTag 0 sceneA) = .next t ∧ t.st = .busy) ∧ (∃ t, step (atTag 0 [0x00#8]) = .next t ∧ t.st = .doneOk) ∧
    (∃ t, step (atTag 0 [0x30#8]) = .next t ∧ t.st = .doneErr) ∧
    (∃ t, step (withBus (.write .w32 0#16 1#32) failed) = .next t ∧ t.st = .busy) ∧
    (∃ t, step (withBus (.write .w32 0#16 2#32) failed) = .next t ∧ t.st = .idle) ∧
    (∃ t, step { failed with pending := [.rst] } = .next t ∧ t.st = .idle) :=
  ⟨exists_next (by decide), exists_next (by decide), exists_next (by decide), exists_next (by decide), exists_next (by decide),
    exists_next (by decide)⟩

/-- A core step; a host write elsewhere than CTRL; a START while BUSY. -/
theorem witness_CoreAndHostWriteOnlyTheirOwn :
    ((atTag 0 sceneA).coreNext ∧ ∃ t, step (atTag 0 sceneA) = .next t ∧ t.st = .busy) ∧
    (∃ t, step (withBus (.write .w32 8#16 1#32) failed) = .next t ∧ t.version = 1#8) ∧
    ((1#32).getLsbD 1 = false ∧ ∃ t, step (withBus (.write .w32 0#16 1#32) (atTag 0 sceneA)) = .next t ∧ t.st = .busy) :=
  ⟨⟨coreNext_of_nil rfl rfl rfl, exists_next (by decide)⟩, exists_next (by decide), by decide, exists_next (by decide)⟩

/-- Writes of VERSION, of IN_LEN and at both ends of the IN window, and a core step, all while BUSY. -/
theorem witness_InputsAreFrozenWhileBusy :
    (∀ acc ∈ [HostAccess.write .w32 8#16 7#32, .write .w32 12#16 0#32, .write .w32 0x2000#16 1#32, .write .w8 0x3FFF#16 1#32],
      (withBus acc (atTag 0 sceneA)).st = .busy ∧ onNext (step (withBus acc (atTag 0 sceneA))) (fun t => t.st == .busy) = true) ∧
    ∃ t, step (atTag 0 sceneA) = .next t ∧ t.st = .busy :=
  ⟨by decide, exists_next (by decide)⟩

theorem witness_HostReadsHaveNoSideEffect : ¬ (failed.st = .busy ∧ 0x1C#16 = 0x1C#16 ∧ BusWidth.w32 = .w32) := by decide

theorem witness_OutMemIsHiddenOutsideDoneOk :
    SameButOutMem failed { failed with outMem := [(0, 1#8)] } ∧ failed ≠ { failed with outMem := [(0, 1#8)] } ∧ failed.st ≠ .doneOk :=
  ⟨rfl, by decide, by decide⟩

/-- Two streams that differ only past IN_LEN. -/
theorem witness_BytesPastInLenHaveNoEffect :
    SameBelowInLen (atTag 0 [0x10#8]) { atTag 0 [0x10#8] with inMem := cells 0 [0x10#8, 0xFF#8] } ∧ (atTag 0 [0x10#8]).coreNext ∧
      ∃ t, step (atTag 0 [0x10#8]) = .next t ∧ t.st = .busy :=
  ⟨⟨rfl, by decide⟩, coreNext_of_nil rfl rfl rfl, exists_next (by decide)⟩

/-- A tag step and a length step that do not end the decode. -/
theorem witness_CoreStepConsumesTheStream :
    ((atTag 0 sceneA).Good ∧ (atTag 0 sceneA).coreNext ∧ ∃ t, step (atTag 0 sceneA) = .next t ∧ t.st = .busy) ∧
    ((atLen .num 1#8 4 sceneA).Good ∧ (atLen .num 1#8 4 sceneA).coreNext ∧ (atLen .num 1#8 4 sceneA).phase = .segLen ∧
      ∃ t, step (atLen .num 1#8 4 sceneA) = .next t ∧ t.st = .busy) :=
  ⟨⟨good_tag, coreNext_of_nil rfl rfl rfl, exists_next (by decide)⟩, good_length, coreNext_of_nil rfl rfl rfl, rfl,
    exists_next (by decide)⟩

theorem witness_DecodeEndsWithinTheBound : (atTag 0 sceneA).Good ∧ (atTag 0 sceneA).st = .busy ∧ (atTag 0 sceneA).pending = [] :=
  ⟨good_tag, rfl, rfl⟩

/-- A wait in DONE_OK, a read in DONE_ERR, and a CTRL write of 00 with other bits set. -/
theorem witness_ResultStaysUntilTheNextCommand :
    ((done [0x31#8]).st = .doneOk ∧ ∃ t, step (done [0x31#8]) = .next t ∧ t.st = .doneOk) ∧
    (failed.st = .doneErr ∧ ∃ t, step (withBus (.read .w32 0x14#16) failed) = .next t ∧ t.st = .doneErr) ∧
    ((0xFFFFFFFC#32).toNat % 4 = 0 ∧ ∃ t, step (withBus (.write .w32 0#16 0xFFFFFFFC#32) failed) = .next t ∧ t.st = .doneErr) :=
  ⟨⟨rfl, exists_next (by decide)⟩, ⟨rfl, exists_next (by decide)⟩, by decide, exists_next (by decide)⟩

/-- A decode that ends; START, CLEAR and an even write of IE from DONE_OK with IE = 1; a read of STATUS. -/
theorem witness_InterruptLineFollowsCompletion :
    ((atTag 0 [0x00#8]).coreNext ∧ ∃ t, step (atTag 0 [0x00#8]) = .next t ∧ t.st ≠ .busy) ∧
    (∃ t, exec (.start 0#30) { done [] with ie := true } = .next t ∧ t.st = .busy) ∧
    (∃ t, exec (.clear 0#1 0#30) { done [] with ie := true } = .next t ∧ t.st = .idle) ∧
    ((0xFFFFFFFE#32).toNat % 2 = 0 ∧ ∃ t, exec (.wrIntEn 0xFFFFFFFE#32) { done [] with ie := true } = .next t ∧ t.ie = false) ∧
    (∃ t, exec (.rdReg 1#4) { done [] with ie := true } = .next t ∧ t.resp = some (.read 6#32 false)) :=
  ⟨⟨coreNext_of_nil rfl rfl rfl, exists_next (by decide)⟩, exists_next (by decide), exists_next (by decide),
    ⟨by decide, exists_next (by decide)⟩, exists_next (by decide)⟩

theorem witness_RaiseKeepsAllButTheError :
    (atTag 0 [0x30#8]).coreNext ∧ ∃ t, step (atTag 0 [0x30#8]) = .next t ∧ t.st = .doneErr :=
  ⟨coreNext_of_nil rfl rfl rfl, exists_next (by decide)⟩

/-- The same decode beside other leftovers: MODE, a stale OUT_MEM, IE, a byte past IN_LEN. -/
def otherLeftovers (s : State) : State :=
  { s with mode := .byte, outMem := [(7, 0x55#8)], ie := true, inMem := cells 0 (sceneA ++ [0xEE#8]) }

theorem witness_CoreStepKeepsAgreement :
    SameDecode (atTag 0 sceneA) (otherLeftovers (atTag 0 sceneA)) ∧ (atTag 0 sceneA).coreNext ∧
      (otherLeftovers (atTag 0 sceneA)).coreNext ∧ ∃ t, step (atTag 0 sceneA) = .next t ∧ t.st = .busy := by
  refine ⟨?_, coreNext_of_nil rfl rfl rfl, coreNext_of_nil rfl rfl rfl, exists_next (by decide)⟩
  constructor <;> decide

/-- Two states with the same inputs, one of them after a failed decode, that START together. -/
theorem witness_DecodeDependsOnlyOnItsInputs :
    let s : State := withBus (.write .w32 0#16 (0#30 ++ 0b01#2)) (loaded sceneA)
    let t : State := withBus (.write .w32 0#16 (5#30 ++ 0b01#2)) { otherLeftovers (loaded sceneA) with st := .doneErr, errCode := .unsupportedMode }
    s.cfg.legal = true ∧ t.cfg = s.cfg ∧ s.st ≠ .busy ∧ t.st ≠ .busy ∧ t.version = s.version ∧ t.inLen = s.inLen ∧
      (∀ j < s.inLen.toNat, t.inByte j = s.inByte j) ∧ (∃ s', Host.Core.run Sys2Proof.core 1 s = .next s') :=
  ⟨by decide, rfl, by decide, by decide, rfl, rfl, by decide, _, rfl⟩

end Sys2Proof.Tests
end

section
/-! PROOFS. The family of 10_state.md: reset, the invariant Good, who writes what, and what a core step consumes. -/

namespace Sys2Proof.Machine

variable {s t : State}

/-! ## Sizes -/

/-- The legal parameter values of 00_scope.md R8 as inequalities. -/
theorem legal_iff (p : Params) : p.legal = true ↔
    1 ≤ p.inCap ∧ p.inCap ≤ 8191 ∧ (16 * p.inCap + 4) / 5 ≤ p.outCap ∧ p.outCap ≤ 32768 := by
  simp [Params.legal, and_assoc]

theorem State.Good.sized (h : s.Good) : s.Sized := ⟨h.legal, h.inLenLe⟩

/-- An output at most 2/5 as long as the stream before it fits into OUT_CAP (45_accumulator.md R225). -/
theorem State.Sized.outCap_of_room (h : s.Sized) {p o : Nat} (hr : 5 * p ≤ 2 * o) (ho : o ≤ 8 * s.inLen.toNat) :
    p ≤ s.cfg.outCap := by
  obtain ⟨hl, hi⟩ := h
  obtain ⟨-, -, hc, -⟩ := (legal_iff _).mp hl
  omega

/-- OUT_PTR as a number after an append that fits. -/
theorem State.Sized.appended_outPtr_toNat (h : s.Sized) {bs : List Byte}
    (hc : s.outPtr.toNat + bs.length ≤ s.cfg.outCap) :
    (s.appended bs).outPtr.toNat = s.outPtr.toNat + bs.length := by
  obtain ⟨hl, -⟩ := h
  obtain ⟨-, -, -, ho⟩ := (legal_iff _).mp hl
  rw [State.appended_outPtr, BitVec.toNat_add, BitVec.toNat_ofNat]
  omega

/-! ## What a state's updates keep of Good -/

/-- The state after reset is good (10_state.md R44). -/
theorem State.resetOf_good {cfg : Params} (h : cfg.legal = true) : (State.resetOf cfg).Good where
  legal := h
  inWf := .nil
  inBound := nofun
  outWf := .nil
  outBound := nofun
  inLenLe := Nat.zero_le _
  outPtrLe := Nat.zero_le _
  outWritten := nofun
  phaseLegal := nofun
  modeLegal := nofun
  offsetLe := nofun
  bodyRem := nofun
  room := nofun
  errIff := by simp [State.resetOf]
  errInfoZero := fun _ => rfl
  noOverflow := nofun
  noNumericError := nofun
  reachedOffset := nofun
  reachedLe := nofun
  floorReached := nofun

theorem State.Good.rstOp (h : s.Good) : s.rstOp.Good := { State.resetOf_good h.legal with }

theorem State.Good.popped (h : s.Good) : s.popped.Good := { h with }

theorem State.Good.respond (h : s.Good) (r : Response) : (s.respond r).Good := { h with }

theorem State.Good.setIe (h : s.Good) (b : Bool) : (s.setIe b).Good := { h with }

theorem State.Good.setVersion (h : s.Good) (v : BitVec 8) : (s.setVersion v).Good := by
  unfold State.setVersion
  split
  · exact h
  · exact { h with }

/-- IN_LEN is clamped to IN_CAP, and is not written during a decode (10_state.md R33). -/
theorem State.Good.setInLen (h : s.Good) (w : Half) : (s.setInLen w).Good := by
  unfold State.setInLen
  split
  · exact h
  · rename_i hb
    exact { h with
      inLenLe := by
        show (clampLength s.cfg.inCap w).toNat ≤ s.cfg.inCap
        rw [clampLength, BitVec.toNat_ofNat]
        exact (Nat.mod_le _ _).trans (min_le_right _ _)
      offsetLe := fun hb' => absurd hb' hb }

theorem State.Good.inWindowWrite (h : s.Good) (n : BusWidth) (j : Nat) (v : Word) : (s.inWindowWrite n j v).Good := by
  unfold State.inWindowWrite
  split
  · exact h
  · exact { h with
      inWf := Memory.putBelow_wf j _ h.inWf
      inBound := Memory.putBelow_bound j _ h.inBound }

/-- The reading of BIT_OFFSET is one of the offsets reached, so it may be the next floor. -/
theorem State.Good.bitOffsetRead (h : s.Good) : s.bitOffsetRead.Good := by
  unfold State.bitOffsetRead
  split
  · rename_i hb
    exact { h with floorReached := fun _ => (State.bitOffset_of_busy hb (h.floorReached hb)).1 }
  · exact h

/-- START and CLEAR put the core's registers back to 0 and begin a new record of offsets; they differ in the new STATE. -/
theorem State.Good.restarted (h : s.Good) {c : CoreState} (hc : c ≠ .doneErr) : State.Good { s.started with st := c } :=
  { h with
    outPtrLe := Nat.zero_le _
    outWritten := nofun
    phaseLegal := nofun
    offsetLe := fun _ => Nat.zero_le _
    bodyRem := nofun
    room := fun _ => Nat.zero_le _
    errIff := by simp [hc]
    errInfoZero := fun _ => rfl
    noOverflow := nofun
    noNumericError := nofun
    reachedOffset := fun _ => List.mem_cons_self
    reachedLe := fun _ => by simp
    floorReached := fun _ => List.mem_cons_self }

theorem State.Good.startCommand (h : s.Good) : s.startCommand.Good := by
  unfold State.startCommand
  split
  · exact h
  · exact h.restarted (c := .busy) nofun

theorem State.Good.clearCommand (h : s.Good) : s.clearCommand.Good := h.restarted (c := .idle) nofun

/-- Moving past a field that fits leaves OFFSET inside the stream, and gives the output only more room. -/
theorem State.Good.advance (h : s.Good) {n : Nat} (hf : s.fits n = true) : (s.advance n).Good := by
  have hle := (State.fits_iff n s).mp hf
  have ho := State.advance_offset_toNat h.sized hle
  exact { h with
    offsetLe := fun _ => by rw [ho]; exact hle
    room := fun hb => (h.room hb).trans (by rw [ho]; omega)
    reachedOffset := fun _ => List.mem_cons_self
    reachedLe := fun hb => List.forall_mem_cons.mpr
      ⟨le_rfl, fun o hm => (h.reachedLe hb o hm).trans (by rw [ho]; omega)⟩
    floorReached := fun hb => List.mem_cons_of_mem _ (h.floorReached hb) }

/-- The clauses about a decode say nothing of a state that is not BUSY: ending one needs a matching ERR_CODE only. -/
theorem State.Good.ended (h : s.Good) {c : CoreState} {e : ErrCode} {i : Half} (hc : c ≠ .busy)
    (he : e ≠ .none ↔ c = .doneErr) (hi : e = .none → i = 0#16) (ho : e ≠ .outputOverflow)
    (hn : s.cfg.numOvr = .wide → e ≠ .invalidNumericValue) :
    State.Good { s with st := c, errCode := e, errInfo := i } :=
  { h with
    offsetLe := fun hb => absurd hb hc
    bodyRem := fun hb => absurd hb hc
    room := fun hb => absurd hb hc
    errIff := he
    errInfoZero := hi
    noOverflow := ho
    noNumericError := hn
    reachedOffset := fun hb => absurd hb hc
    reachedLe := fun hb => absurd hb hc
    floorReached := fun hb => absurd hb hc }

/-- Taking an error that these parameters allow (60_exceptions.md R276). -/
theorem State.Good.raise (h : s.Good) {e : ErrCode} (info : Half) (he : e ≠ .none) (ho : e ≠ .outputOverflow)
    (hn : s.cfg.numOvr = .wide → e ≠ .invalidNumericValue) : (s.raise e info).Good :=
  h.ended nofun (by simp [he]) (fun h0 => absurd h0 he) ho hn

/-- No error stands while a decode runs (10_state.md R35). -/
theorem State.Good.errCode_of_busy (h : s.Good) (hb : s.st = .busy) : s.errCode = .none := by
  by_contra he
  simpa [hb] using h.errIff.mp he

theorem State.Good.finishOk (h : s.Good) (hb : s.st = .busy) : s.finishOk.Good :=
  h.ended (c := .doneOk) nofun (by simp [h.errCode_of_busy hb]) h.errInfoZero h.noOverflow h.noNumericError

theorem State.Good.enterSegment (h : s.Good) {m : Mode} (hm : m ≠ .mode3) : (s.enterSegment m).Good :=
  { h with
    phaseLegal := nofun
    modeLegal := hm
    bodyRem := nofun
    room := fun hb => (Nat.le_add_right _ _).trans (h.room hb) }

/-- A length field enters the body only with REM at least 1, and a numeric body only with 2 to spare. -/
theorem State.Good.loadLength (h : s.Good) (l : Half)
    (hr : s.st = .busy → s.mode = .num → 5 * s.outPtr.toNat + 2 ≤ 2 * s.offset.toNat) : (s.loadLength l).Good :=
  { h with
    phaseLegal := by
      rw [State.loadLength_phase]
      split <;> nofun
    bodyRem := fun _ hp hl => by
      rw [State.loadLength_rem] at hl
      simp [hl] at hp
    room := fun hb => by
      have h0 := h.room hb
      unfold State.slack
      split
      · rename_i hm
        exact hr hb hm.2
      · exact (Nat.le_add_right _ _).trans h0 }

/-! ## A group keeps the bound on the output -/

/-- A group takes at least 4 bits (30_encoding.md R96 to R98). -/
theorem GroupRow.four_le {w k len : Nat} (h : GroupRow s w k len) : 4 ≤ w := by
  unfold GroupRow at h
  omega

/-- A group appends at most 2/5 as many bytes as it takes bits, but that the last of a numeric segment may use up the 2 to
spare (45_accumulator.md R225). -/
theorem GroupRow.room {w k len : Nat} (h : GroupRow s w k len) (hp : s.phase = .segBody) :
    5 * len + (if s.rem.toNat = k then 0 else s.slack) ≤ 2 * w + s.slack := by
  have hs : s.slack = if s.mode = .num then 2 else 0 := by simp [State.slack, hp]
  have hle : (if s.rem.toNat = k then 0 else s.slack) ≤ s.slack := by split <;> omega
  rcases h with h | ⟨hm, h⟩ | ⟨hm, h⟩ | h | h | h
  case inr.inl | inr.inr.inl =>
    rw [if_pos (by omega), hs, if_pos hm]
    omega
  all_goals omega

/-- REM reaches 0 exactly where the group takes all of it. -/
theorem rem_sub_eq_zero_iff {k : Nat} (h : k ≤ s.rem.toNat) : s.rem - BitVec.ofNat 16 k = 0#16 ↔ s.rem.toNat = k := by
  rw [← BitVec.toNat_inj, BitVec.toNat_sub, BitVec.toNat_ofNat, BitVec.toNat_ofNat]
  omega

/-- A group counts no more than REM (10_state.md R25). -/
theorem GroupRow.le_rem {w k len : Nat} (h : GroupRow s w k len) : k ≤ s.rem.toNat := by
  unfold GroupRow at h
  omega

/-- A completed group leaves the output within its bound on the stream. -/
theorem GroupRow.room_after {w k : Nat} {bs : List Byte} (h : GroupRow s w k bs.length) (hg : s.Good) (hb : s.st = .busy)
    (hp : s.phase = .segBody) :
    5 * (s.outPtr.toNat + bs.length) + (((s.advance w).appended bs).consume (BitVec.ofNat 16 k)).slack ≤
      2 * (s.offset.toNat + w) := by
  have hs : (((s.advance w).appended bs).consume (BitVec.ofNat 16 k)).slack = if s.rem.toNat = k then 0 else s.slack := by
    simp only [State.slack, State.consume_phase, State.consume_mode, State.appended_rem, State.appended_phase,
      State.appended_mode, State.advance_rem, State.advance_phase, State.advance_mode, rem_sub_eq_zero_iff h.le_rem]
    split <;> simp
  have h0 := hg.room hb
  have h1 := h.room hp
  omega

/-- OutputOverflow cannot occur (45_accumulator.md R225). -/
theorem GroupRow.fits_outCap {w k : Nat} {bs : List Byte} (h : GroupRow s w k bs.length) (hg : s.Good) (hb : s.st = .busy)
    (hp : s.phase = .segBody) (hf : s.fits w = true) : s.outPtr.toNat + bs.length ≤ s.cfg.outCap :=
  hg.sized.outCap_of_room ((Nat.le_add_right _ _).trans (h.room_after hg hb hp)) ((State.fits_iff w s).mp hf)

/-- Append leaves every byte below the new OUT_PTR written. -/
theorem State.Good.appended_outWritten (h : s.Good) {bs : List Byte} :
    ∀ j < s.outPtr.toNat + bs.length, (Memory.byteAt (Memory.putAll s.outMem s.outPtr.toNat bs) j).isSome = true := by
  intro j hj
  rw [Memory.byteAt_putAll]
  split
  · have : j - s.outPtr.toNat < bs.length := by omega
    simp [this]
  · exact h.outWritten j (by omega)

/-- A group stays in the body only with REM at least 1 (41_dispatcher.md R151). -/
theorem State.consume_rem_ne_zero {k : Half} (h : (s.consume k).phase = .segBody) : (s.consume k).rem ≠ 0#16 := by
  intro hz
  rw [State.consume_rem] at hz
  simp [hz] at h

/-- A group that completes. -/
theorem State.Good.group (h : s.Good) (hb : s.st = .busy) (hp : s.phase = .segBody) {w k : Nat} {bs : List Byte}
    (hf : s.fits w = true) (hr : GroupRow s w k bs.length) :
    (((s.advance w).appended bs).consume (BitVec.ofNat 16 k)).Good := by
  have ha := h.advance hf
  have hc := hr.fits_outCap h hb hp hf
  have hout : ((s.advance w).appended bs).outPtr.toNat = s.outPtr.toNat + bs.length := ha.sized.appended_outPtr_toNat hc
  have hoff := State.advance_offset_toNat h.sized ((State.fits_iff w s).mp hf)
  exact { ha with
    outWf := Memory.putAll_wf _ bs h.outWf
    outBound := Memory.putAll_bound h.outBound hc
    outPtrLe := hout.trans_le hc
    outWritten := fun j hj => h.appended_outWritten j (hj.trans_eq hout)
    phaseLegal := by
      rw [State.consume_phase, State.appended_phase, State.advance_phase, hp]
      split <;> nofun
    bodyRem := fun _ => State.consume_rem_ne_zero
    room := fun _ => by
      rw [State.consume_outPtr, State.consume_offset, State.appended_offset, hout, hoff]
      exact hr.room_after h hb hp }

/-! ## Every step keeps Good -/

/-- A core step keeps Good. -/
theorem CoreEffect.good (he : CoreEffect s t) (h : s.Good) (hb : s.st = .busy) : t.Good := by
  cases he with
  | segment m _ hf hm => exact (h.advance hf).enterSegment hm
  | term _ hf => exact (h.advance hf).finishOk hb
  | eos => exact h.finishOk hb
  | unsupported t _ hf => exact (h.advance hf).raise _ nofun nofun nofun
  | badVersion => exact h.raise _ nofun nofun nofun
  | length w l hp _ _ hn _ hf =>
    refine (h.advance hf).loadLength l fun _ hm => ?_
    have h0 := h.room hb
    have h10 := hn hm
    have ho := State.advance_offset_toNat h.sized ((State.fits_iff w s).mp hf)
    rw [State.advance_outPtr, ho]
    omega
  | short => exact h.raise _ nofun nofun nofun
  | badNumber _ _ _ _ _ _ hf ho =>
    exact (h.advance hf).raise _ nofun nofun fun hw => absurd (ho.symm.trans hw) nofun
  | badSymbol _ _ _ _ _ hf => exact (h.advance hf).raise _ nofun nofun nofun
  | overflow _ _ _ hp hf hr hc => exact absurd (hr.fits_outCap h hb hp hf) (by omega)
  | group _ _ _ hp hf hr => exact h.group hb hp hf hr

/-- A host access keeps Good. -/
theorem HostEffect.good {acc : HostAccess} (he : HostEffect acc s t) (h : s.Good) : t.Good := by
  cases he with
  | answer r => exact h.respond r
  | bitOffset => exact h.bitOffsetRead.respond _
  | start => exact h.startCommand.respond _
  | clear => exact h.clearCommand.respond _
  | version => exact (h.setVersion _).respond _
  | inLen => exact (h.setInLen _).respond _
  | intEn => exact (h.setIe _).respond _
  | inWindow n a v => exact (h.inWindowWrite n _ v).respond _

/-- Settles O41: each kind of step keeps the invariant. -/
theorem stepKeepsGood : Obligations.StepKeepsGood := by
  intro s t h hs
  rcases step_cases hs with ⟨hc, he⟩ | ⟨acc, rest, _, he⟩ | ⟨rest, _, rfl⟩ | ⟨_, _, rfl⟩
  · exact he.good h.popped hc.2.1
  · exact he.good h.popped
  · exact h.popped.rstOp
  · exact h.popped

/-- Settles O40, clause by clause: outside BUSY the clauses about a decode ask for nothing. -/
theorem resetIsGood : Obligations.ResetIsGood := fun _ => State.resetOf_good

/-! ## Where a core step leaves OFFSET -/

/-- A core step moves OFFSET past one field that fits, of 8 bits or more for a length, or ends the decode where it is. -/
theorem CoreEffect.offset_cases (he : CoreEffect s t) :
    (∃ w, 4 ≤ w ∧ (s.phase = .segLen → 8 ≤ w) ∧ s.fits w = true ∧ t.offset = (s.advance w).offset) ∨
    (t.offset = s.offset ∧ t.st ≠ .busy) := by
  cases he with
  | segment _ hp hf => exact .inl ⟨4, le_rfl, by simp [hp], hf, rfl⟩
  | term hp hf => exact .inl ⟨4, le_rfl, by simp [hp], hf, rfl⟩
  | eos => exact .inr ⟨rfl, nofun⟩
  | unsupported _ hp hf => exact .inl ⟨4, le_rfl, by simp [hp], hf, rfl⟩
  | badVersion => exact .inr ⟨rfl, nofun⟩
  | length w _ _ h8 _ _ _ hf => exact .inl ⟨w, by omega, fun _ => h8, hf, rfl⟩
  | short => exact .inr ⟨rfl, nofun⟩
  | badNumber w _ _ hp h4 _ hf => exact .inl ⟨w, h4, by simp [hp], hf, rfl⟩
  | badSymbol w _ hp h4 _ hf => exact .inl ⟨w, h4, by simp [hp], hf, rfl⟩
  | overflow w _ _ hp hf hr => exact .inl ⟨w, hr.four_le, by simp [hp], hf, rfl⟩
  | group w _ _ hp hf hr => exact .inl ⟨w, hr.four_le, by simp [hp], hf, rfl⟩

/-- Settles O49, by where the core step leaves OFFSET. -/
theorem coreStepConsumesTheStream : Obligations.CoreStepConsumesTheStream := by
  intro s t h hc hs
  rcases (step_coreEffect hc hs).offset_cases with ⟨w, h4, h8, hf, ho⟩ | ⟨ho, hb⟩
  · have hle : s.offset.toNat + w ≤ 8 * s.inLen.toNat := (State.fits_iff w _).mp hf
    have ho' : t.offset.toNat = s.offset.toNat + w := by rw [ho, State.advance_offset_toNat h.popped.sized hle]; rfl
    exact ⟨by omega, by omega, fun _ => by omega, fun _ hp => by have := h8 hp; omega⟩
  · rw [ho]
    exact ⟨le_rfl, h.offsetLe hc.2.1, fun h' => absurd h' hb, fun h' => absurd h' hb⟩

/-! ## STATE, and what each side leaves alone -/

/-- A core step leaves STATE or ends the decode (10_state.md R21). -/
theorem CoreEffect.st_cases (he : CoreEffect s t) : t.st = s.st ∨ t.st = .doneOk ∨ t.st = .doneErr := by
  cases he with
  | segment | length | group => exact .inl rfl
  | term | eos => exact .inr (.inl rfl)
  | unsupported | badVersion | short | badNumber | badSymbol | overflow => exact .inr (.inr rfl)

/-- A core step writes none of the host's inputs (10_state.md R46, 20_memory.md R61). -/
theorem CoreEffect.keeps_inputs (he : CoreEffect s t) :
    t.version = s.version ∧ t.inLen = s.inLen ∧ t.ie = s.ie ∧ t.cfg = s.cfg ∧ t.resp = s.resp ∧ t.inMem = s.inMem ∧
      t.past = s.past := by
  cases he <;> exact ⟨rfl, rfl, rfl, rfl, rfl, rfl, rfl⟩

/-- No host access writes MODE, the parameters or OUT_MEM (10_state.md R46, 20_memory.md R62). -/
theorem HostEffect.keeps_mode_outMem {acc : HostAccess} (he : HostEffect acc s t) :
    t.mode = s.mode ∧ t.cfg = s.cfg ∧ t.outMem = s.outMem ∧ t.past = s.past := by
  cases he <;> simp

/-- The registers of the core that the host sees stand as they were. -/
def SameCore (s t : State) : Prop :=
  t.st = s.st ∧ t.offset = s.offset ∧ t.phase = s.phase ∧ t.rem = s.rem ∧ t.outPtr = s.outPtr ∧ t.errCode = s.errCode ∧
    t.errInfo = s.errInfo

/-- START, CLEAR, or nothing: all that a host access can do to the core's registers (10_state.md R46). -/
theorem HostEffect.core_cases {acc : HostAccess} (he : HostEffect acc s t) :
    SameCore s t ∨
    (∃ v, acc = .write .w32 0x0000#16 v ∧ v.getLsbD 1 = false ∧ v.getLsbD 0 = true ∧ s.st ≠ .busy ∧ t.st = .busy) ∨
    (∃ v, acc = .write .w32 0x0000#16 v ∧ v.getLsbD 1 = true ∧ t.st = .idle) := by
  cases he with
  | start v ha h1 h0 =>
    unfold State.startCommand
    split
    · exact .inl (by simp [SameCore])
    · exact .inr (.inl ⟨v, ha, h1, h0, ‹_›, rfl⟩)
  | clear v ha h1 => exact .inr (.inr ⟨v, ha, h1, rfl⟩)
  | answer | bitOffset | version | inLen | intEn | inWindow => exact .inl (by simp [SameCore])

/-- A step that is a host access has an effect of the host. -/
theorem step_hostEffect {acc : HostAccess} {rest : List Event} (hp : s.pending = .bus acc :: rest)
    (hs : step s = .next t) : HostEffect acc s.popped t := by
  rcases step_cases hs with ⟨⟨_, _, h⟩, _⟩ | ⟨acc', rest', h, he⟩ | ⟨rest', h, _⟩ | ⟨_, h, _⟩
  · simp [hp] at h
  · rw [hp] at h
    cases h
    exact he
  · simp [hp] at h
  · simp [hp] at h

/-- Settles O43: each kind of step, by what it does to STATE. -/
theorem stateChangesOnlyAsListed : Obligations.StateChangesOnlyAsListed := by
  refine ⟨⟨rfl, rfl, rfl, rfl⟩, fun s t hs => ?_⟩
  rcases step_cases hs with ⟨hc, he⟩ | ⟨acc, rest, hp, he⟩ | ⟨rest, hp, rfl⟩ | ⟨_, _, rfl⟩
  · exact he.st_cases.imp id fun h => .inl ⟨hc.2.1, hc, h⟩
  · rcases he.core_cases with ⟨h, _⟩ | ⟨v, rfl, h1, h0, hb, ht⟩ | ⟨v, rfl, h1, ht⟩
    · exact .inl h
    · exact .inr (.inr (.inl ⟨hb, ht, v, rest, hp, h0, h1⟩))
    · exact .inr (.inr (.inr ⟨ht, .inl ⟨v, rest, hp, h1⟩⟩))
  · exact .inr (.inr (.inr ⟨rfl, .inr ⟨rest, hp⟩⟩))
  · exact .inl rfl

/-- Settles O44, from what the core's and the host's effects leave alone. -/
theorem coreAndHostWriteOnlyTheirOwn : Obligations.CoreAndHostWriteOnlyTheirOwn := by
  refine fun s t hs => ⟨fun hc => ?_, fun acc rest hp => ?_⟩
  · obtain ⟨hv, hl, hi, hcfg, hr, hm, hpast⟩ := (step_coreEffect hc hs).keeps_inputs
    exact ⟨hv, hl, hi, hcfg, hr, State.inByte_congr hm hpast⟩
  · have he := step_hostEffect hp hs
    obtain ⟨hm, hcfg, ho, hpast⟩ := he.keeps_mode_outMem
    refine ⟨hm, hcfg, State.outByte_congr ho hpast, fun hn => ?_⟩
    rcases he.core_cases with h | ⟨v, ha, _, h0, hb, _⟩ | ⟨v, ha, h1, _⟩
    · exact h
    · exact absurd ((hn v ha).2 h0) hb
    · exact absurd (hn v ha).1 (by simp [h1])

/-! ## Stuck states -/

/-- A length row is missing exactly under a valid VERSION with MODE 3 (93 U14). -/
theorem decodeLen_error_iff (c : Ctx) (bits : List Bool) :
    (∃ r, decodeLen c bits = .error r) ↔ band c.version ≠ none ∧ c.mode = .mode3 := by
  unfold decodeLen
  cases band c.version with
  | none => simp
  | some b => cases c.mode <;> cases b <;> simp

/-- A group row is missing exactly under MODE 3 or REM 0 (93 U14, 10_state.md R25). -/
theorem decodeGroup_error_iff (c : Ctx) (bits : List Bool) :
    (∃ r, decodeGroup c bits = .error r) ↔ c.mode = .mode3 ∨ c.rem = 0#16 := by
  unfold decodeGroup
  by_cases hr : c.rem = 0#16
  · simp [hr]
  · cases hm : c.mode <;> simp [hr] <;> split_ifs <;> simp

/-! The decoder, phase by phase (30_encoding.md R106). -/

theorem decodeStream_dispatch {c : Ctx} (h : c.phase = .dispatch) (bits : List Bool) :
    ∃ i, decodeStream c bits = .ok i := by
  rw [decodeStream, h]
  cases takeField 4 bits <;> exact ⟨_, rfl⟩

theorem decodeStream_segLen {c : Ctx} (h : c.phase = .segLen) (bits : List Bool) :
    decodeStream c bits = decodeLen c bits := by rw [decodeStream, h]

theorem decodeStream_segBody {c : Ctx} (h : c.phase = .segBody) (bits : List Bool) :
    decodeStream c bits = decodeGroup c bits := by rw [decodeStream, h]

theorem decodeStream_phase3 {c : Ctx} (h : c.phase = .phase3) (bits : List Bool) :
    decodeStream c bits = .error .phase3 := by rw [decodeStream, h]

/-- The decoder has no row exactly in the stuck states (93 U14). -/
theorem decodeStream_error_iff_stuck (s : State) (bits : List Bool) :
    (∃ r, decodeStream s.ctx bits = .error r) ↔ Pseudo.Stuck s := by
  unfold Pseudo.Stuck
  cases hp : s.phase with
  | dispatch =>
    obtain ⟨i, hi⟩ := decodeStream_dispatch (c := s.ctx) hp bits
    simp [hi]
  | segLen =>
    rw [decodeStream_segLen hp, decodeLen_error_iff]
    simp
  | segBody =>
    rw [decodeStream_segBody hp, decodeGroup_error_iff]
    simp
  | phase3 => simp [decodeStream_phase3 (c := s.ctx) hp]

/-- A core step faults exactly where the decoder has no row: every instruction it decodes has a next state. -/
theorem step_fault_iff (hc : s.coreNext) :
    (∃ r, step s = .fault r) ↔ ∃ r, decodeStream s.ctx s.nextBits = .error r := by
  rw [step_core hc]
  cases hd : decodeStream s.ctx s.nextBits with
  | error r => simp
  | ok i =>
    obtain ⟨t, ht, _⟩ := exec_coreEffect (s := s.popped) hd
    simp [ht]

/-- Settles O9: the step faults only where the decoder has no row, which is in the stuck states. -/
theorem stepStopsExactlyInStuckStates : Obligations.StepStopsExactlyInStuckStates := by
  refine ⟨fun s hc => ?_, fun s hc hp => ?_, fun s hl => ?_⟩
  · exact ((step_fault_iff hc).trans (decodeStream_error_iff_stuck s _)).symm
  · rw [step_core hc, decodeStream_phase3 hp]
    rfl
  · rw [step, hl]
    rfl

/-! ## BIT_OFFSET, reset and ALPHA -/

/-- Settles O31: the free value picks among the admitted offsets, and the previous reading is one of them. -/
theorem bitOffsetWhileBusyIsAMonotoneDraw : Obligations.BitOffsetWhileBusyIsAMonotoneDraw := by
  intro s hb hf
  obtain ⟨hm, hle⟩ := State.bitOffset_of_busy hb hf
  have hr : s.bitOffsetRead = { s with readFloor := s.bitOffset, draws := s.draws + 1 } := if_pos hb
  refine ⟨s.registerRead 7#4, s.bitOffset, rfl, rfl, hm, hle, ?_⟩
  rw [State.registerRead, if_pos rfl, hr]
  exact ⟨rfl, hm, rfl⟩

/-- Settles O1: the table is the definition of the reset state, whose buffers list no byte. -/
theorem resetGivesTheTableOfValues : Obligations.ResetGivesTheTableOfValues := by
  refine ⟨rfl, ?_⟩
  rintro cfg s rfl
  exact ⟨rfl, rfl, rfl, rfl, rfl, rfl, rfl, rfl, rfl, rfl, rfl, rfl, rfl, fun _ => rfl, fun _ => rfl, fun _ => if_neg nofun⟩

/-- Settles O20: both lists are closed, 45 bytes each. -/
theorem alphabetIsTheListedSymbols : Obligations.AlphabetIsTheListedSymbols := by
  unfold Obligations.AlphabetIsTheListedSymbols
  decide

end Sys2Proof.Machine
end

section
/-! PROOFS. The family of 20_memory.md: what a decode depends on, what the host's reads and writes do, and what stays
frozen while BUSY and after the end of a decode. -/

namespace Sys2Proof.Machine

variable {s t : State}

/-! ## What the core reads of the stream -/

/-- The Bit Cursor sees OFFSET, IN_LEN and the bytes below IN_LEN, and nothing else (40_bit_cursor.md R125). -/
theorem State.nextBits_congr (ho : t.offset = s.offset) (hl : t.inLen = s.inLen)
    (hb : ∀ j < s.inLen.toNat, t.inByte j = s.inByte j) : t.nextBits = s.nextBits := by
  unfold State.nextBits
  rw [ho, hl]
  refine List.map_congr_left fun j hj => ?_
  have hk : (s.offset.toNat + j) / 8 < s.inLen.toNat := by
    rw [List.mem_range] at hj
    omega
  rw [State.streamBit, hb _ hk, State.streamBit]

/-- MODE selects nothing at a tag (10_state.md R24, 30_encoding.md R106). -/
theorem decodeStream_congr {c d : Ctx} (bits : List Bool) (hp : d.phase = c.phase) (hr : d.rem = c.rem)
    (hv : d.version = c.version) (hm : c.phase ≠ .dispatch → d.mode = c.mode) :
    decodeStream d bits = decodeStream c bits := by
  by_cases h : c.phase = .dispatch
  · simp only [decodeStream, hp, h]
  · have hdc : d = c := by
      cases c
      cases d
      simp_all
    rw [hdc]

/-! ## Each update of a core step keeps agreement -/

namespace SameDecode

/-- States that agree decode the same element. -/
theorem decodeStream_eq (h : SameDecode s t) : decodeStream t.ctx t.nextBits = decodeStream s.ctx s.nextBits := by
  rw [State.nextBits_congr h.offset h.inLen h.inByte]
  exact decodeStream_congr _ h.phase h.rem h.version h.mode

theorem fits_eq (h : SameDecode s t) (n : Nat) : t.fits n = s.fits n := by
  rw [State.fits, State.fits, h.offset, h.inLen]

theorem popped (h : SameDecode s t) : SameDecode s.popped t.popped := { h with }

theorem finishOk (h : SameDecode s t) : SameDecode s.finishOk t.finishOk := { h with st := rfl }

theorem raise (h : SameDecode s t) (e : ErrCode) (info : Half) : SameDecode (s.raise e info) (t.raise e info) :=
  { h with st := rfl, errCode := rfl, errInfo := rfl }

theorem advance (h : SameDecode s t) (n : Nat) : SameDecode (s.advance n) (t.advance n) :=
  { h with offset := by simp [h.offset] }

theorem enterSegment (h : SameDecode s t) (m : Mode) : SameDecode (s.enterSegment m) (t.enterSegment m) :=
  { h with phase := rfl, mode := fun _ => rfl }

/-- A segment's body reads MODE, so the states must agree on it before. -/
theorem loadLength (h : SameDecode s t) (hm : t.mode = s.mode) (l : Half) :
    SameDecode (s.loadLength l) (t.loadLength l) :=
  { h with phase := rfl, mode := fun _ => hm, rem := rfl }

theorem endSegment (h : SameDecode s t) : SameDecode s.endSegment t.endSegment :=
  { h with phase := rfl, mode := fun hp => absurd rfl hp, rem := rfl }

theorem consume (h : SameDecode s t) (k : Half) : SameDecode (s.consume k) (t.consume k) := by
  refine { h with phase := ?_, mode := fun hp => h.mode fun hd => hp ?_, rem := ?_ }
  · simp [State.consume, h.rem, h.phase]
  · simp [State.consume, hd]
  · simp [State.consume, h.rem]

/-- The bytes appended are the same, and so are those below them. -/
theorem appended (h : SameDecode s t) (bs : List Byte) : SameDecode (s.appended bs) (t.appended bs) := by
  refine { h with outPtr := by simp [h.outPtr], outByte := fun j hj => ?_ }
  rw [State.appended_outWritten bs t j, State.appended_outWritten bs s j, h.outPtr]
  split
  · rfl
  · have hle : (s.appended bs).outPtr.toNat ≤ s.outPtr.toNat + bs.length := by
      rw [State.appended_outPtr, BitVec.toNat_add, BitVec.toNat_ofNat]
      omega
    exact h.outByte j (by omega)

/-! ## Each part of a core step keeps agreement -/

theorem needBits (h : SameDecode s t) {n : Nat} {k : State → State}
    (hk : SameDecode (k (s.advance n)) (k (t.advance n))) : SameDecode (needBits n k s) (needBits n k t) := by
  unfold Machine.needBits
  rw [h.fits_eq]
  split
  · exact hk
  · exact h.raise _ _

theorem append (h : SameDecode s t) {bs : List Byte} {k : State → State}
    (hk : SameDecode (k (s.appended bs)) (k (t.appended bs))) : SameDecode (append bs k s) (append bs k t) := by
  unfold Machine.append
  rw [h.cfg, h.outPtr]
  split
  · exact h.raise _ _
  · exact hk

theorem numericGroup (h : SameDecode s t) {w k v : Nat} {done : State → State}
    (hd : ∀ {u u' : State}, SameDecode u u' → SameDecode (done u) (done u')) :
    SameDecode (numericGroup w k v done s) (numericGroup w k v done t) := by
  refine h.needBits ?_
  have ha := h.advance w
  rw [ha.cfg]
  cases decDigits (s.advance w).cfg.numOvr v k with
  | none => exact ha.raise _ _
  | some bs => exact ha.append (hd (ha.appended bs))

end SameDecode

/-! ## Each element decoded keeps agreement -/

/-- An instruction has a next state from both states, and the next states agree. -/
def AgreeAfter (i : Instr) (s t : State) : Prop :=
  ∃ s' t', exec i s = .next s' ∧ exec i t = .next t' ∧ SameDecode s' t'

theorem decodeTag_agree (h : SameDecode s t) (tag : BitVec 4) : AgreeAfter (decodeTag tag) s t := by
  have ha := h.advance 4
  rcases decodeTag_cases tag with ⟨_, hd⟩ | ⟨_, hd⟩ | ⟨_, hd⟩ | ⟨_, hd⟩ | ⟨_, hd⟩
  · rw [hd]; exact ⟨_, _, rfl, rfl, ha.finishOk⟩
  · rw [hd]; exact ⟨_, _, rfl, rfl, ha.enterSegment .num⟩
  · rw [hd]; exact ⟨_, _, rfl, rfl, ha.enterSegment .alnum⟩
  · rw [hd]; exact ⟨_, _, rfl, rfl, ha.enterSegment .byte⟩
  · exact ⟨_, _, hd s, hd t, ha.raise _ _⟩

/-- A length row raises UnsupportedVersion, or reads a length field (41_dispatcher.md R148). -/
theorem decodeLen_cases {c : Ctx} {bits : List Bool} {i : Instr} (hd : decodeLen c bits = .ok i) :
    i = .lenBadVersion ∨ ∃ w l, ∀ s, exec i s = .next (lengthField w l s) := by
  unfold decodeLen at hd
  split at hd
  · cases hd
    exact .inl rfl
  · split at hd <;> cases hd <;> exact .inr ⟨_, _, fun _ => rfl⟩

theorem decodeLen_agree (h : SameDecode s t) (hm : t.mode = s.mode) {c : Ctx} {bits : List Bool} {i : Instr}
    (hd : decodeLen c bits = .ok i) : AgreeAfter i s t := by
  rcases decodeLen_cases hd with rfl | ⟨w, l, he⟩
  · refine ⟨_, _, rfl, rfl, ?_⟩
    rw [h.version]
    exact h.raise _ _
  · exact ⟨_, _, he s, he t, h.needBits ((h.advance w).loadLength hm l)⟩

theorem decodeGroup_agree (h : SameDecode s t) {c : Ctx} {bits : List Bool} {i : Instr}
    (hd : decodeGroup c bits = .ok i) : AgreeAfter i s t := by
  have ha := h.advance
  have happ := fun w bs => (ha w).appended bs
  unfold decodeGroup at hd
  split at hd
  · cases hd
  cases hm : c.mode <;> simp only [hm] at hd
  case num =>
    split_ifs at hd <;> cases hd
    · exact ⟨_, _, rfl, rfl, h.numericGroup (·.consume _)⟩
    · exact ⟨_, _, rfl, rfl, h.numericGroup (·.endSegment)⟩
    · exact ⟨_, _, rfl, rfl, h.numericGroup (·.endSegment)⟩
  case alnum =>
    split_ifs at hd <;> cases hd <;> refine ⟨_, _, rfl, rfl, h.needBits ?_⟩ <;> split
    · exact (ha 11).raise _ _
    · exact (ha 11).append ((happ 11 _).consume _)
    · exact (ha 6).raise _ _
    · exact (ha 6).append (happ 6 _).endSegment
  case byte =>
    cases hd
    exact ⟨_, _, rfl, rfl, h.needBits ((ha 8).append ((happ 8 _).consume _))⟩
  case mode3 => cases hd

/-- Every element decoded keeps agreement; where it loads a length the states agree on MODE. -/
theorem decodeStream_agree (h : SameDecode s t) {c : Ctx} {bits : List Bool} {i : Instr}
    (hm : c.phase = .segLen → t.mode = s.mode) (hd : decodeStream c bits = .ok i) : AgreeAfter i s t := by
  cases hp : c.phase with
  | dispatch =>
    rw [decodeStream, hp] at hd
    cases ht : takeField 4 bits <;> simp only [ht] at hd <;> cases hd
    · exact ⟨_, _, rfl, rfl, h.finishOk⟩
    · exact decodeTag_agree h _
  | segLen =>
    rw [decodeStream_segLen hp] at hd
    exact decodeLen_agree h (hm hp) hd
  | segBody =>
    rw [decodeStream_segBody hp] at hd
    exact decodeGroup_agree h hd
  | phase3 =>
    rw [decodeStream_phase3 hp] at hd
    cases hd

/-- Settles O54: both states decode the same element, and each element keeps agreement. -/
theorem coreStepKeepsAgreement : Obligations.CoreStepKeepsAgreement := by
  intro s t s' h hs ht hstep
  rw [step_core hs] at hstep
  rw [step_core ht, h.decodeStream_eq]
  cases hd : decodeStream s.ctx s.nextBits with
  | error r =>
    rw [hd] at hstep
    cases hstep
  | ok i =>
    have hm : s.phase = .segLen → t.mode = s.mode := fun hp => h.mode (by simp [hp])
    obtain ⟨u, u', hu, hu', ha⟩ := decodeStream_agree h.popped hm hd
    simp only [hd, hu] at hstep
    cases hstep
    exact ⟨u', hu', ha⟩

/-! ## A decode from START on -/

/-- Only a state with legal parameters has a next state (93 U17). -/
theorem legal_of_step (hs : step s = .next t) : s.cfg.legal = true := by
  by_contra hl
  rw [step, if_neg hl] at hs
  cases hs

/-- A run of `k + 1` steps is one step and a run of `k`. -/
theorem run_succ_iff {M : Host.Core} {k : Nat} {s t : M.State} :
    M.run (k + 1) s = .next t ↔ ∃ u, M.step s = .next u ∧ M.run k u = .next t := by
  simp only [Host.Core.run]
  cases M.step s <;> simp

theorem CoreEffect.keeps_pending (he : CoreEffect s t) : t.pending = s.pending := by
  cases he <;> rfl

/-- Outside BUSY a machine that the host leaves alone waits (41_dispatcher.md R140). -/
theorem step_wait (hl : s.cfg.legal = true) (hb : s.st ≠ .busy) (hp : s.pending = []) : step s = .next s := by
  rw [step, if_pos hl, State.nextTurn, hp]
  simp only [State.coreTurn, if_neg hb]

/-- A step that nothing outside the core takes part in keeps agreement. -/
theorem SameDecode.step_alone {s' : State} (h : SameDecode s t) (hps : s.pending = []) (hpt : t.pending = [])
    (hstep : step s = .next s') :
    ∃ t', step t = .next t' ∧ SameDecode s' t' ∧ s'.pending = [] ∧ t'.pending = [] := by
  have hl := legal_of_step hstep
  have hlt : t.cfg.legal = true := by rw [h.cfg, hl]
  by_cases hb : s.st = .busy
  · have hcs : s.coreNext := ⟨hl, hb, .inl hps⟩
    have hct : t.coreNext := ⟨hlt, h.st.trans hb, .inl hpt⟩
    obtain ⟨t', ht', h'⟩ := coreStepKeepsAgreement s t s' h hcs hct hstep
    have hpending : ∀ {u u' : State}, u.coreNext → u.pending = [] → step u = .next u' → u'.pending = [] :=
      fun hc hp hu => by rw [(step_coreEffect hc hu).keeps_pending, State.popped_pending, hp]; rfl
    exact ⟨t', ht', h', hpending hcs hps hstep, hpending hct hpt ht'⟩
  · rw [step_wait hl hb hps] at hstep
    cases hstep
    exact ⟨t, step_wait hlt (h.st ▸ hb) hpt, h, hps, hpt⟩

/-- A run that nothing outside the core takes part in keeps agreement. -/
theorem SameDecode.run_alone (k : Nat) {s t s' : State} (h : SameDecode s t) (hps : s.pending = []) (hpt : t.pending = [])
    (hrun : Host.Core.run core k s = .next s') : ∃ t', Host.Core.run core k t = .next t' ∧ SameDecode s' t' := by
  induction k generalizing s t with
  | zero =>
    cases hrun
    exact ⟨t, rfl, h⟩
  | succ k ih =>
    obtain ⟨u, hu, hrun⟩ := run_succ_iff.mp hrun
    obtain ⟨u', hu', h', hp, hp'⟩ := h.step_alone hps hpt hu
    obtain ⟨t', ht', hs'⟩ := ih h' hp hp' hrun
    exact ⟨t', run_succ_iff.mpr ⟨u', hu', ht'⟩, hs'⟩

/-- An access to the register window that is no bus error has the row of its register. -/
theorem decodeAccess_register {acc : HostAccess} (hb : ¬ acc.Bad) (hr : acc.addr.toNat ≤ 0x3F) :
    decodeAccess acc = decodeRegister acc := by
  rcases decodeAccess_cases acc with ⟨h, _⟩ | ⟨_, _, h⟩ | ⟨_, h, _⟩ | ⟨_, h, _⟩
  · exact absurd h hb
  · exact h
  · omega
  · omega

/-- A CTRL write whose two low bits are 01 is START (46_host_commands.md R241, R243). -/
theorem decodeAccess_start (hi : BitVec 30) :
    decodeAccess (.write .w32 0x0000#16 (hi ++ 0b01#2)) = .start ((hi ++ 0b01#2).extractLsb' 2 30) := by
  rw [decodeAccess_register (by simp [HostAccess.Bad, HostAccess.busWidth, HostAccess.addr]) (Nat.zero_le _)]
  change decodeCtrl _ = _
  have h1 : (hi ++ 0b01#2).getLsbD 1 = false := by rw [BitVec.getLsbD_append]; rfl
  have h0 : (hi ++ 0b01#2).getLsbD 0 = true := by rw [BitVec.getLsbD_append]; rfl
  exact (if_neg (Bool.eq_false_iff.mp h1)).trans (if_pos h0)

/-- A step that is START, outside BUSY. -/
theorem step_start {hi : BitVec 30} (hl : s.cfg.legal = true) (hb : s.st ≠ .busy)
    (hp : s.pending = [.bus (.write .w32 0x0000#16 (hi ++ 0b01#2))]) :
    step s = .next (s.popped.started.respond (.write false)) := by
  have hs : s.popped.startCommand = s.popped.started := if_neg hb
  rw [step_bus hl hp, decodeAccess_start, ← hs]
  rfl

/-- START makes states agree that have the same inputs, whatever earlier decodes left (20_memory.md R79). -/
theorem SameDecode.of_started (hc : t.cfg = s.cfg) (hv : t.version = s.version) (hl : t.inLen = s.inLen)
    (hb : ∀ j < s.inLen.toNat, t.inByte j = s.inByte j) : SameDecode s.started t.started where
  cfg := hc
  st := rfl
  offset := rfl
  phase := rfl
  mode := fun h => absurd rfl h
  rem := rfl
  outPtr := rfl
  errCode := rfl
  errInfo := rfl
  version := hv
  inLen := hl
  inByte := hb
  outByte := nofun

/-- The host sees the same output in states that agree. -/
theorem SameDecode.outWindowByte_eq (h : SameDecode s t) (j : Nat) : t.outWindowByte j = s.outWindowByte j := by
  rw [State.outWindowByte, State.outWindowByte, h.st, h.outPtr, h.cfg]
  split
  · exact h.outByte j (by tauto)
  · rfl

/-- Settles O55: START makes the two states agree, and each step of the core keeps them so. -/
theorem decodeDependsOnlyOnItsInputs : Obligations.DecodeDependsOnlyOnItsInputs := by
  intro s t hi hi' k s' hl hcfg hs ht hv hlen hbytes hps hpt hrun
  obtain ⟨u, hu, hrun⟩ := run_succ_iff.mp hrun
  cases (step_start hl hs hps).symm.trans hu
  have hstart : SameDecode (s.popped.started.respond (.write false)) (t.popped.started.respond (.write false)) :=
    { SameDecode.of_started (s := s.popped) (t := t.popped) hcfg hv hlen hbytes with }
  obtain ⟨t', ht', h⟩ := hstart.run_alone k (by simp [hps]) (by simp [hpt]) hrun
  exact ⟨t', run_succ_iff.mpr ⟨_, step_start (by rw [hcfg, hl]) ht hpt, ht'⟩,
    h.st, h.errCode, h.errInfo, h.offset, h.outPtr, h.outWindowByte_eq⟩

/-! ## Where an access goes, by the host address map -/

/-- The shape that MemRead and MemWrite share: BUSERR, a register, the IN window or the OUT window (20_memory.md R70 to R73). -/
def byWindow {α : Type} (acc : HostAccess) (busErr reg inWin outWin : α) : α :=
  if acc.busWidth = .w32 ∧ acc.addr.toNat % 4 ≠ 0 then busErr
  else if acc.addr.toNat ≤ 0x003F then
    if acc.busWidth ≠ .w32 then busErr else reg
  else if 0x2000 ≤ acc.addr.toNat ∧ acc.addr.toNat ≤ 0x3FFF then inWin
  else if 0x8000 ≤ acc.addr.toNat then outWin
  else busErr

theorem memRead_eq_byWindow (n : BusWidth) (a : Half) (s : State) :
    Pseudo.memRead a n s = byWindow (.read n a) (0, true) (Pseudo.regRead a.toNat s, false)
      (Pseudo.littleEndian s.inWindowByte n (a.toNat - 0x2000), false)
      (Pseudo.littleEndian s.outWindowByte n (a.toNat - 0x8000), false) := rfl

theorem memWrite_eq_byWindow (n : BusWidth) (a : Half) (v : Word) (s : State) :
    Pseudo.memWrite a n v s = byWindow (.write n a v) (s, true) (Pseudo.regWrite a.toNat v s, false)
      (Pseudo.inWindowWrite (a.toNat - 0x2000) n v s, false) (s, false) := rfl

section ByWindow

variable {α : Type} {acc : HostAccess} {busErr reg inWin outWin : α}

theorem byWindow_bad (h : acc.Bad) : byWindow acc busErr reg inWin outWin = busErr := by
  rcases h with h | ⟨h8, hr⟩ | h | h
  · rw [byWindow, if_pos h]
  · rw [byWindow, if_neg (by simp [h8]), if_pos hr, if_pos (by simp [h8])]
  all_goals
    rw [byWindow, if_neg (c := _ ≤ 0x003F) (by omega), if_neg (c := _ ∧ _ ≤ 0x3FFF) (by omega),
      if_neg (c := 0x8000 ≤ _) (by omega), ite_self]

theorem aligned_of_not_bad (h : ¬ acc.Bad) (hw : acc.busWidth = .w32) : acc.addr.toNat % 4 = 0 :=
  not_not.mp fun hm => h (.inl ⟨hw, hm⟩)

theorem busWidth_of_register (h : ¬ acc.Bad) (hr : acc.addr.toNat ≤ 0x3F) : acc.busWidth = .w32 := by
  cases hw : acc.busWidth with
  | w8 => exact absurd (.inr (.inl ⟨hw, hr⟩)) h
  | w32 => rfl

theorem byWindow_register (h : ¬ acc.Bad) (hr : acc.addr.toNat ≤ 0x3F) : byWindow acc busErr reg inWin outWin = reg := by
  rw [byWindow, if_neg fun hm => hm.2 (aligned_of_not_bad h hm.1), if_pos hr, if_neg (by simp [busWidth_of_register h hr])]

theorem byWindow_in (h : ¬ acc.Bad) (h1 : 0x2000 ≤ acc.addr.toNat) (h2 : acc.addr.toNat ≤ 0x3FFF) :
    byWindow acc busErr reg inWin outWin = inWin := by
  rw [byWindow, if_neg fun hm => hm.2 (aligned_of_not_bad h hm.1), if_neg (by omega), if_pos ⟨h1, h2⟩]

theorem byWindow_out (h : ¬ acc.Bad) (h1 : 0x8000 ≤ acc.addr.toNat) :
    byWindow acc busErr reg inWin outWin = outWin := by
  rw [byWindow, if_neg fun hm => hm.2 (aligned_of_not_bad h hm.1), if_neg (by omega), if_neg (by omega), if_pos h1]

end ByWindow

/-- A register's index in its address. -/
theorem regIndex_toNat {a : Half} (h : a.toNat ≤ 0x3F) (h4 : a.toNat % 4 = 0) : a.toNat = 4 * (a.extractLsb' 2 4).toNat := by
  rw [← regAddr_toNat, regAddr_extract h h4]

/-- A byte's index in the IN window. -/
theorem inIndex_toNat {a : Half} (h : 0x2000 ≤ a.toNat) (h' : a.toNat ≤ 0x3FFF) :
    (a.extractLsb' 0 13).toNat = a.toNat - 0x2000 := by
  have := inAddr_toNat (a.extractLsb' 0 13)
  rw [inAddr_extract h h'] at this
  omega

/-- A byte's index in the OUT window. -/
theorem outIndex_toNat {a : Half} (h : 0x8000 ≤ a.toNat) : (a.extractLsb' 0 15).toNat = a.toNat - 0x8000 := by
  have := outAddr_toNat (a.extractLsb' 0 15)
  rw [outAddr_extract h] at this
  omega

/-- The 16 registers of the map (10_state.md R28). -/
theorem register_cases (r : BitVec 4) : r = 0#4 ∨ r = 1#4 ∨ r = 2#4 ∨ r = 3#4 ∨ r = 4#4 ∨ r = 5#4 ∨ r = 6#4 ∨ r = 7#4 ∨
    r = 8#4 ∨ r = 9#4 ∨ r = 10#4 ∨ r = 11#4 ∨ r = 12#4 ∨ r = 13#4 ∨ r = 14#4 ∨ r = 15#4 := by
  revert r
  decide

/-! ## Reads -/

/-- STATUS as a number (10_state.md R30). -/
theorem statusWord_eq (s : State) :
    s.statusWord =
      BitVec.ofNat 32 (4 * (if s.ie = true ∧ (s.st = .doneOk ∨ s.st = .doneErr) then 1 else 0) + s.st.bits.toNat) := by
  rw [State.statusWord, State.irq]
  cases s.ie <;> cases s.st <;> rfl

/-- A register reads as RegRead of its offset; BIT_OFFSET reads as OFFSET where that is what it returns. -/
theorem regRead_eq_pseudo (hl : s.cfg.legal = true) {bitOffset : Half} {r : BitVec 4} (hb : r = 7#4 → bitOffset = s.offset) :
    regRead bitOffset r s = BitVec.ofNat 32 (Pseudo.regRead (4 * r.toNat) s) := by
  obtain ⟨-, hi, -, ho⟩ := (legal_iff _).mp hl
  have hcap : ∀ c < 2 ^ 16, (BitVec.ofNat 16 c).setWidth 32 = BitVec.ofNat 32 c := fun c hc =>
    BitVec.eq_of_toNat_eq (by simp; omega)
  rcases register_cases r with h | h | h | h | h | h | h | h | h | h | h | h | h | h | h | h <;> subst h
  · rfl
  · exact statusWord_eq s
  · exact (BitVec.ofNat_toNat 32 s.version).symm
  · exact (BitVec.ofNat_toNat 32 s.inLen).symm
  · change (if s.st = .doneOk then s.outPtr.setWidth 32 else 0#32) =
      BitVec.ofNat 32 (if s.st = .doneOk then s.outPtr.toNat else 0)
    split
    · exact (BitVec.ofNat_toNat 32 s.outPtr).symm
    · rfl
  · exact (BitVec.ofNat_toNat 32 s.errCode.bits).symm
  · exact (BitVec.ofNat_toNat 32 s.errInfo).symm
  · rw [hb rfl]
    exact (BitVec.ofNat_toNat 32 s.offset).symm
  · change (BitVec.ofBool s.ie).setWidth 32 = BitVec.ofNat 32 (if s.ie = true then 1 else 0)
    cases s.ie <;> rfl
  · exact hcap _ (by omega)
  · exact hcap _ (by omega)
  · change s.configWord = BitVec.ofNat 32 (if s.cfg.numOvr = .fault then 1 else 0)
    rw [State.configWord]
    cases s.cfg.numOvr <;> rfl
  all_goals rfl

theorem packWord_nil : packWord [] = 0#32 := rfl

/-- A byte in front of packed bytes is the least significant (20_memory.md R64). -/
theorem packWord_cons (b : Byte) (bs : List Byte) :
    packWord (b :: bs) = BitVec.ofNat 32 (b.toNat + 2 ^ 8 * (packWord bs).toNat) := by
  have hand : b.setWidth 32 &&& (packWord bs <<< 8) = 0#32 := by
    ext i hi
    by_cases h8 : i < 8
    · simp [h8]
    · simp [BitVec.getLsbD_of_ge b i (by omega)]
  rw [packWord, ← BitVec.add_eq_or_of_and_eq_zero _ _ hand]
  apply BitVec.eq_of_toNat_eq
  simp only [BitVec.toNat_add, BitVec.toNat_setWidth, BitVec.toNat_shiftLeft, BitVec.toNat_ofNat, Nat.shiftLeft_eq]
  omega

/-- A window read packs its bytes little-endian (20_memory.md R64, R72). -/
theorem windowWord_eq_littleEndian (byteOf : Nat → Byte) (n : BusWidth) (j : Nat) :
    windowWord byteOf n j = BitVec.ofNat 32 (Pseudo.littleEndian byteOf n j) := by
  cases n with
  | w8 =>
    change packWord [byteOf j] = BitVec.ofNat 32 (byteOf j).toNat
    rw [packWord_cons, packWord_nil]
    rfl
  | w32 =>
    change packWord [byteOf j, byteOf (j + 1), byteOf (j + 2), byteOf (j + 3)] = BitVec.ofNat 32 (_ + _ + _ + _)
    apply BitVec.eq_of_toNat_eq
    simp only [packWord_cons, packWord_nil, BitVec.toNat_ofNat]
    omega

/-- A read of a register, but BIT_OFFSET while BUSY, is RegRead of its offset (46_host_commands.md R245). -/
theorem exec_readRegister {a : Half} (hl : s.cfg.legal = true) (hr : a.toNat ≤ 0x3F) (h4 : a.toNat % 4 = 0)
    (hoff : ¬ (s.st = .busy ∧ a = 0x1C#16)) :
    exec (decodeRegister (.read .w32 a)) s =
      .next (s.respond (.read (BitVec.ofNat 32 (Pseudo.regRead a.toNat s)) false)) := by
  have hbusy : a.extractLsb' 2 4 = 7#4 → s.st ≠ .busy := fun h7 hs =>
    hoff ⟨hs, by rw [← regAddr_extract hr h4, h7]; rfl⟩
  have hval := regRead_eq_pseudo (bitOffset := s.bitOffset) hl fun h7 => if_neg (hbusy h7)
  rw [← regIndex_toNat hr h4] at hval
  change Host.Outcome.next (s.registerRead (a.extractLsb' 2 4)) = _
  rw [State.registerRead, hval]
  split
  · rw [State.bitOffsetRead, if_neg (hbusy ‹_›)]
  · rfl

/-- A read of the IN window (46_host_commands.md R247). -/
theorem exec_readInWindow (n : BusWidth) {a : Half} (h1 : 0x2000 ≤ a.toNat) (h2 : a.toNat ≤ 0x3FFF) :
    exec (decodeInWindow (.read n a)) s =
      .next (s.respond (.read (BitVec.ofNat 32 (Pseudo.littleEndian s.inWindowByte n (a.toNat - 0x2000))) false)) := by
  rw [← inIndex_toNat h1 h2, ← windowWord_eq_littleEndian]
  rfl

/-- A read of the OUT window (46_host_commands.md R248). -/
theorem exec_readOutWindow (n : BusWidth) {a : Half} (h1 : 0x8000 ≤ a.toNat) :
    exec (decodeOutWindow (.read n a)) s =
      .next (s.respond (.read (BitVec.ofNat 32 (Pseudo.littleEndian s.outWindowByte n (a.toNat - 0x8000))) false)) := by
  rw [← outIndex_toNat h1, ← windowWord_eq_littleEndian]
  rfl

/-- Settles O38, row by row: a bus error, a register, or a window. -/
theorem hostReadIsTheSpecsMemRead : Obligations.HostReadIsTheSpecsMemRead := by
  intro s n a hl hoff
  rw [memRead_eq_byWindow]
  rcases decodeAccess_cases (.read n a) with ⟨hb, row, hm, -, h⟩ | ⟨hb, hr, h⟩ | ⟨hb, h1, h2, h⟩ | ⟨hb, h1, h⟩
  · rw [h, busErrRow_exec hm, byWindow_bad hb]
    rfl
  · obtain rfl : n = .w32 := busWidth_of_register hb hr
    rw [h, byWindow_register hb hr]
    exact exec_readRegister hl hr (aligned_of_not_bad hb rfl) fun ⟨hs, ha⟩ => hoff ⟨hs, rfl, ha⟩
  · rw [h, byWindow_in hb h1 h2]
    exact exec_readInWindow n h1 h2
  · rw [h, byWindow_out hb h1]
    exact exec_readOutWindow n h1

/-- A read only answers, but for the word at BIT_OFFSET (20_memory.md R67). -/
theorem HostEffect.read_cases {n : BusWidth} {a : Half} (he : HostEffect (.read n a) s t) :
    (∃ r, t = s.respond r) ∨ (n = .w32 ∧ a = 0x1C#16 ∧ ∃ r, t = s.bitOffsetRead.respond r) := by
  cases he with
  | answer r => exact .inl ⟨r, rfl⟩
  | bitOffset r ha =>
    cases ha
    exact .inr ⟨rfl, rfl, r, rfl⟩
  | start _ ha | clear _ ha | version _ ha | inLen _ ha | intEn _ ha | inWindow _ _ _ ha => cases ha

/-- Settles O46: a read only answers, or while BUSY notes its reading of BIT_OFFSET. -/
theorem hostReadsHaveNoSideEffect : Obligations.HostReadsHaveNoSideEffect := by
  intro s n a
  obtain ⟨t, ht, he⟩ := exec_hostEffect (.read n a) s
  refine ⟨t, ht, ?_⟩
  rcases he.read_cases with ⟨r, rfl⟩ | ⟨rfl, rfl, r, rfl⟩
  · exact ⟨rfl, fun _ => ⟨rfl, rfl⟩⟩
  · unfold State.bitOffsetRead
    split
    · exact ⟨rfl, fun hn => absurd ⟨‹_›, rfl, rfl⟩ hn⟩
    · exact ⟨rfl, fun _ => ⟨rfl, rfl⟩⟩

/-! ## Writes -/

/-- Byte lane `i` of a word (20_memory.md R64). -/
theorem lane_eq (v : Word) (i : Nat) : lane v i = BitVec.ofNat 8 (v.toNat / 2 ^ (8 * i)) := by
  apply BitVec.eq_of_toNat_eq
  rw [lane, BitVec.extractLsb'_toNat, BitVec.toNat_ofNat, Nat.shiftRight_eq_div_pow]

/-- A write of the IN window is InWindowWrite (46_host_commands.md R246). -/
theorem inWindowWrite_eq_pseudo (n : BusWidth) (j : Nat) (v : Word) (s : State) :
    s.inWindowWrite n j v = Pseudo.inWindowWrite j n v s := by
  unfold State.inWindowWrite Pseudo.inWindowWrite
  split
  · rfl
  · cases n <;> simp only [writeLanes, BusWidth.bytes, funext (lane_eq v)] <;> rfl

theorem setVersion_eq_pseudo (v : Word) (s : State) : s.setVersion (v.setWidth 8) = Pseudo.regWrite 0x08 v s := by
  have hv : v.setWidth 8 = BitVec.ofNat 8 (v.toNat % 256) := BitVec.eq_of_toNat_eq (by simp)
  rw [State.setVersion, hv]
  exact (ite_not ..).symm

theorem setInLen_eq_pseudo (v : Word) (s : State) : s.setInLen (v.setWidth 16) = Pseudo.regWrite 0x0C v s := by
  rw [State.setInLen, clampLength, BitVec.toNat_setWidth]
  exact (ite_not ..).symm

theorem setIe_eq_pseudo (v : Word) (s : State) : s.setIe (v.getLsbD 0) = Pseudo.regWrite 0x20 v s := by
  rw [State.setIe, BitVec.getLsbD, Nat.testBit_zero]
  rfl

/-- A CTRL write is START, CLEAR or nothing (46_host_commands.md R241 to R243). -/
theorem exec_decodeCtrl (v : Word) (s : State) :
    exec (decodeCtrl v) s = .next ((Pseudo.regWrite 0x00 v s).respond (.write false)) := by
  change _ = Host.Outcome.next (State.respond _ (if v.getLsbD 1 = true then _ else if v.getLsbD 0 = true then _ else s))
  rw [decodeCtrl]
  split
  · rfl
  · split <;> rfl

/-- A write of a register is RegWrite of its offset (46_host_commands.md R241 to R244). -/
theorem exec_decodeRegWrite (r : BitVec 4) (v : Word) (s : State) :
    exec (decodeRegWrite r v) s = .next ((Pseudo.regWrite (4 * r.toNat) v s).respond (.write false)) := by
  have hversion : exec (.wrVersion v) s = .next ((Pseudo.regWrite 0x08 v s).respond (.write false)) := by
    rw [← setVersion_eq_pseudo]; rfl
  have hinLen : exec (.wrInLen v) s = .next ((Pseudo.regWrite 0x0C v s).respond (.write false)) := by
    rw [← setInLen_eq_pseudo]; rfl
  have hintEn : exec (.wrIntEn v) s = .next ((Pseudo.regWrite 0x20 v s).respond (.write false)) := by
    rw [← setIe_eq_pseudo]; rfl
  rcases register_cases r with h | h | h | h | h | h | h | h | h | h | h | h | h | h | h | h <;> subst h
  · exact exec_decodeCtrl v s
  · rfl
  · exact hversion
  · exact hinLen
  · rfl
  · rfl
  · rfl
  · rfl
  · exact hintEn
  all_goals rfl

/-- A write of a register, by its address (46_host_commands.md R244). -/
theorem exec_writeRegister {a : Half} (v : Word) (hr : a.toNat ≤ 0x3F) (h4 : a.toNat % 4 = 0) :
    exec (decodeRegister (.write .w32 a v)) s = .next ((Pseudo.regWrite a.toNat v s).respond (.write false)) := by
  rw [regIndex_toNat hr h4]
  exact exec_decodeRegWrite _ v s

/-- A write of the IN window, by its address (46_host_commands.md R246). -/
theorem exec_writeInWindow (n : BusWidth) {a : Half} (v : Word) (h1 : 0x2000 ≤ a.toNat) (h2 : a.toNat ≤ 0x3FFF) :
    exec (decodeInWindow (.write n a v)) s =
      .next ((Pseudo.inWindowWrite (a.toNat - 0x2000) n v s).respond (.write false)) := by
  rw [← inIndex_toNat h1 h2, ← inWindowWrite_eq_pseudo]
  rfl

/-- Settles O39, row by row: a bus error, a register, or a window. -/
theorem hostWriteIsTheSpecsMemWrite : Obligations.HostWriteIsTheSpecsMemWrite := by
  intro s n a v
  rw [memWrite_eq_byWindow]
  rcases decodeAccess_cases (.write n a v) with ⟨hb, row, hm, -, h⟩ | ⟨hb, hr, h⟩ | ⟨hb, h1, h2, h⟩ | ⟨hb, h1, h⟩
  · rw [h, busErrRow_exec hm, byWindow_bad hb]
    rfl
  · obtain rfl : n = .w32 := busWidth_of_register hb hr
    rw [h, byWindow_register hb hr]
    exact exec_writeRegister v hr (aligned_of_not_bad hb rfl)
  · rw [h, byWindow_in hb h1 h2]
    exact exec_writeInWindow n v h1 h2
  · rw [h, byWindow_out hb h1]
    rfl

/-! ## What stays frozen -/

/-- While BUSY no host access changes IN_LEN, VERSION or IN_MEM (20_memory.md R76). -/
theorem HostEffect.keeps_inputs {acc : HostAccess} (he : HostEffect acc s t) (hb : s.st = .busy) :
    t.inLen = s.inLen ∧ t.version = s.version ∧ t.inMem = s.inMem ∧ t.past = s.past := by
  cases he with
  | answer | bitOffset | start | clear | intEn => simp
  | version v => simp [State.setVersion, hb]
  | inLen v => simp [State.setInLen, hb]
  | inWindow n a v => simp [State.inWindowWrite, hb]

/-- MemWrite answers OK to every write that is no bus error (20_memory.md R73, 46_host_commands.md R250). -/
theorem memWrite_ok {n : BusWidth} {a : Half} {v : Word} (hb : ¬ (HostAccess.write n a v).Bad) :
    (Pseudo.memWrite a n v s).2 = false := by
  rw [memWrite_eq_byWindow]
  rcases decodeAccess_cases (.write n a v) with ⟨h, _⟩ | ⟨_, hr, _⟩ | ⟨_, h1, h2, _⟩ | ⟨_, h1, _⟩
  · exact absurd h hb
  · rw [byWindow_register hb hr]
  · rw [byWindow_in hb h1 h2]
  · rw [byWindow_out hb h1]

/-- A step that is a write outside BUSERR answers OK. -/
theorem step_write_ok {n : BusWidth} {a : Half} {v : Word} {rest : List Event} (hb : ¬ (HostAccess.write n a v).Bad)
    (hl : s.cfg.legal = true) (hp : s.pending = .bus (.write n a v) :: rest) (hs : step s = .next t) :
    t.resp = some (.write false) := by
  rw [step_bus hl hp, hostWriteIsTheSpecsMemWrite s.popped n a v] at hs
  cases hs
  simp only [memWrite_ok hb]

/-- An aligned access to the IN window is no bus error (46_host_commands.md R250). -/
theorem not_bad_of_inWindow {acc : HostAccess} (h1 : 0x2000 ≤ acc.addr.toNat) (h2 : acc.addr.toNat ≤ 0x3FFF)
    (h4 : acc.busWidth = .w32 → acc.addr.toNat % 4 = 0) : ¬ acc.Bad := by
  rintro (⟨hw, hm⟩ | ⟨-, h⟩ | ⟨-, h⟩ | ⟨h, -⟩)
  · exact hm (h4 hw)
  all_goals omega

/-- Settles O45: core steps and accesses keep the inputs, and the writes are in no row of BUSERR. -/
theorem inputsAreFrozenWhileBusy : Obligations.InputsAreFrozenWhileBusy := by
  intro s t hb hs hrst
  have hl := legal_of_step hs
  have hkeep : t.inLen = s.inLen ∧ t.version = s.version ∧ t.inMem = s.inMem ∧ t.past = s.past := by
    rcases step_cases hs with ⟨_, he⟩ | ⟨acc, rest, _, he⟩ | ⟨rest, hp, _⟩ | ⟨hn, _, _⟩
    · obtain ⟨hv, hl, -, -, -, hm, hpast⟩ := he.keeps_inputs
      exact ⟨hl, hv, hm, hpast⟩
    · exact he.keeps_inputs hb
    · exact absurd hp (hrst rest)
    · exact absurd hb hn
  obtain ⟨hlen, hv, hm, hpast⟩ := hkeep
  refine ⟨hlen, hv, State.inByte_congr hm hpast, fun v rest hp => ?_, fun n a v rest hp h1 h2 h4 => ?_⟩
  · rcases hp with hp | hp <;>
      exact step_write_ok (by simp [HostAccess.Bad, HostAccess.busWidth, HostAccess.addr]) hl hp hs
  · exact step_write_ok (not_bad_of_inWindow h1 h2 h4) hl hp hs

/-- The host sees the same output where STATE, OUT_PTR and OUT_MEM stand as they were. -/
theorem State.outWindowByte_congr (hc : t.cfg = s.cfg) (hst : t.st = s.st) (hp : t.outPtr = s.outPtr)
    (hm : t.outMem = s.outMem) (hpast : t.past = s.past) (j : Nat) : t.outWindowByte j = s.outWindowByte j := by
  rw [State.outWindowByte, State.outWindowByte, hc, hst, hp, State.outByte_congr hm hpast]

/-- A CTRL write of a multiple of 4 is neither START nor CLEAR (46_host_commands.md R243). -/
theorem getLsbD_of_mod_four {v : Word} (h : v.toNat % 4 = 0) : v.getLsbD 1 = false ∧ v.getLsbD 0 = false := by
  simp only [BitVec.getLsbD, Nat.testBit_eq_decide_div_mod_eq, decide_eq_false_iff_not]
  omega

/-- Settles O51: the core has no step, and an access that is neither START nor CLEAR leaves the core's registers. -/
theorem resultStaysUntilTheNextCommand : Obligations.ResultStaysUntilTheNextCommand := by
  intro s t hd hs hrst hctrl
  rcases step_cases hs with ⟨⟨_, hb, _⟩, _⟩ | ⟨acc, rest, hp, he⟩ | ⟨rest, hp, _⟩ | ⟨_, _, rfl⟩
  · simp [hb] at hd
  · have hbits : ∀ v, acc = .write .w32 0x0000#16 v → v.getLsbD 1 = false ∧ v.getLsbD 0 = false := fun v ha =>
      getLsbD_of_mod_four (hctrl v rest (by rw [hp, ha]))
    obtain ⟨-, hcfg, hm, hpast⟩ := he.keeps_mode_outMem
    rcases he.core_cases with ⟨hst, ho, -, -, hptr, hcode, hinfo⟩ | ⟨v, ha, _, h0, _⟩ | ⟨v, ha, h1, _⟩
    · exact ⟨hst, hcode, hinfo, ho, hptr, State.outWindowByte_congr hcfg hst hptr hm hpast⟩
    · exact absurd (h0.symm.trans (hbits v ha).2) nofun
    · exact absurd (h1.symm.trans (hbits v ha).1) nofun
  · exact absurd hp (hrst rest)
  · exact ⟨rfl, rfl, rfl, rfl, rfl, fun _ => rfl⟩

end Sys2Proof.Machine
end

section
/-! PROOFS. The family of 30_encoding.md: decoding and encoding agree, for the elements of the stream and for the host's
accesses. -/

namespace Sys2Proof.Machine

variable {c : Ctx} {bits : List Bool} {acc : HostAccess}

/-! ## Fields and tags at the front of the stream -/

/-- `operand_toBits` for a field given as a number. -/
theorem operand_toBits_ofNat (n v : Nat) (rest : List Bool) : operand n (toBits n v ++ rest) = BitVec.ofNat n v := by
  rw [operand, takeField_toBits]
  exact BitVec.eq_of_toNat_eq (by simp)

/-- At a tag: EOS where fewer than 4 bits are left, else the row of the next 4 bits (30_encoding.md R92). -/
theorem decodeStream_dispatch_eq (hp : c.phase = .dispatch) (bits : List Bool) :
    decodeStream c bits = .ok (if bits.length < 4 then .eos else decodeTag (operand 4 bits)) := by
  rw [decodeStream, hp, operand, takeField]
  split_ifs <;> rfl

theorem decodeStream_tag (hp : c.phase = .dispatch) (v : Nat) (rest : List Bool) :
    decodeStream c (toBits 4 v ++ rest) = .ok (decodeTag (BitVec.ofNat 4 v)) := by
  rw [decodeStream_dispatch_eq hp, operand_toBits_ofNat, if_neg (by simp)]

/-- Each of the 16 tags has a row, which is selected in DISPATCH and encoded by the tag (30_encoding.md R92, R101). -/
theorem decodeTag_row (t : BitVec 4) :
    (decodeTag t).wf = true ∧ (∀ c : Ctx, c.selects (decodeTag t) = (c.phase == .dispatch)) ∧
      encode (decodeTag t) = .stream (toBits 4 t.toNat) := by
  rcases register_cases t with h | h | h | h | h | h | h | h | h | h | h | h | h | h | h | h <;> subst h <;>
    exact ⟨rfl, fun _ => rfl, rfl⟩

/-! ## The element read from the stream -/

/-- What the other direction says of an element read from the front of `bits`. -/
def ReadFrom (c : Ctx) (bits : List Bool) (i : Instr) : Prop :=
  i.wf = true ∧ c.selects i = true ∧ ∃ field, encode i = .stream field ∧ (field <+: bits ∨ bits.length < field.length)

/-- A row that takes nothing from the stream is read from any bits. -/
theorem ReadFrom.of_empty {i : Instr} (hw : i.wf = true) (hs : c.selects i = true) (he : encode i = .stream []) :
    ReadFrom c bits i :=
  ⟨hw, hs, [], he, .inl List.nil_prefix⟩

/-- A row with a field is read from the bits that hold its operand, or fewer are left (30_encoding.md R100). -/
theorem ReadFrom.of_operand {i : Instr} {n : Nat} (hw : i.wf = true) (hs : c.selects i = true)
    (he : encode i = .stream (toBits n (operand n bits).toNat)) : ReadFrom c bits i := by
  refine ⟨hw, hs, _, he, ?_⟩
  rcases Nat.lt_or_ge bits.length n with h | h
  · exact .inr (by simpa using h)
  · exact .inl (toBits_operand h ▸ List.take_prefix n bits)

theorem decodeStream_dispatch_readFrom {i : Instr} (hp : c.phase = .dispatch) (hd : decodeStream c bits = .ok i) :
    ReadFrom c bits i := by
  rw [decodeStream_dispatch_eq hp] at hd
  cases hd
  split_ifs
  · exact .of_empty rfl (beq_iff_eq.mpr hp) rfl
  · obtain ⟨hw, hs, he⟩ := decodeTag_row (operand 4 bits)
    exact .of_operand hw (by simp [hs, hp]) he

theorem decodeLen_readFrom {i : Instr} (hp : c.phase = .segLen) (hd : decodeLen c bits = .ok i) :
    ReadFrom c bits i := by
  unfold decodeLen at hd
  cases hb : band c.version with
  | none =>
    rw [hb] at hd
    cases hd
    exact .of_empty rfl (by simp [Ctx.selects, hp, hb]) rfl
  | some b =>
    rw [hb] at hd
    cases hm : c.mode
    case mode3 => simp [hm] at hd
    all_goals
      rw [hm] at hd
      cases b <;> cases hd <;> exact .of_operand rfl (by simp [Ctx.selects, hp, hb, hm]) rfl

/-- The only REM below 2 that a body step meets (10_state.md R25). -/
theorem rem_eq_one {r : Half} (h0 : r ≠ 0#16) (h2 : r.toNat < 2) : r = 1#16 := by bv_omega

theorem decodeGroup_readFrom {i : Instr} (hp : c.phase = .segBody) (hd : decodeGroup c bits = .ok i) :
    ReadFrom c bits i := by
  have h0 : c.rem ≠ 0#16 := fun h => by simp [decodeGroup, h] at hd
  rw [decodeGroup, if_neg h0] at hd
  cases hm : c.mode <;> simp only [hm] at hd
  case num =>
    split_ifs at hd with h3 h2 <;> cases hd
    · exact .of_operand rfl (by simp [Ctx.selects, hp, hm, h3]) rfl
    · exact .of_operand rfl (by simp [Ctx.selects, hp, hm, h2]) rfl
    · have h1 : c.rem = 1#16 := rem_eq_one h0 (by bv_omega)
      exact .of_operand rfl (by simp [Ctx.selects, hp, hm, h1]) rfl
  case alnum =>
    split_ifs at hd with h2 <;> cases hd
    · exact .of_operand rfl (by simp [Ctx.selects, hp, hm, h2]) rfl
    · have h1 : c.rem = 1#16 := rem_eq_one h0 (by omega)
      exact .of_operand rfl (by simp [Ctx.selects, hp, hm, h1]) rfl
  case byte =>
    cases hd
    have h1 : 1 ≤ c.rem.toNat := by bv_omega
    exact .of_operand rfl (by simp [Ctx.selects, hp, hm, h1]) rfl
  case mode3 => cases hd

theorem decodeStream_readFrom {i : Instr} (hd : decodeStream c bits = .ok i) : ReadFrom c bits i := by
  cases hp : c.phase with
  | dispatch => exact decodeStream_dispatch_readFrom hp hd
  | segLen => exact decodeLen_readFrom hp (decodeStream_segLen hp bits ▸ hd)
  | segBody => exact decodeGroup_readFrom hp (decodeStream_segBody hp bits ▸ hd)
  | phase3 => simp [decodeStream_phase3 hp] at hd

/-! ## The rows of bus errors exclude one another -/

/-- Two rows that take one address agree on the bits that both their masks keep. -/
theorem addrHits_agree {m h m' h' a : Half} (h1 : addrHits m h a = true) (h2 : addrHits m' h' a = true) :
    h &&& m' = h' &&& m := by
  rw [addrHits, beq_iff_eq] at h1 h2
  rw [← h1, ← h2]
  ac_rfl

/-- Each BUSERR row by whether it takes misaligned accesses, and by its mask and match in the opcode table
(30_encoding.md R107). -/
def busErrKeys : List (Bool × Half × Half) :=
  [(true, 3#16, 1#16), (true, 3#16, 2#16), (true, 3#16, 3#16), (false, 0xFFC0#16, 0#16),
   (false, 0xFFC0#16, 0x0040#16), (false, 0xFF80#16, 0x0080#16), (false, 0xFF00#16, 0x0100#16),
   (false, 0xFE00#16, 0x0200#16), (false, 0xFC00#16, 0x0400#16), (false, 0xF800#16, 0x0800#16),
   (false, 0xF000#16, 0x1000#16), (false, 0xC000#16, 0x4000#16)]

/-- The accesses that a key stands for. -/
def FitsKey (key : Bool × Half × Half) (acc : HostAccess) : Prop :=
  acc.misaligned = key.1 ∧ addrHits key.2.1 key.2.2 acc.addr = true

theorem fitsKey_of_misalignedBy {k : Half} (hk : k ≠ 0#16) (h : acc.misalignedBy k = true) :
    FitsKey (true, 3#16, k) acc := by
  rw [HostAccess.misalignedBy, Bool.and_eq_true] at h
  obtain ⟨hw, ha⟩ := h
  refine ⟨?_, ha⟩
  rw [addrHits, beq_iff_eq] at ha
  simp [HostAccess.misaligned, hw, ha, hk]

theorem fitsKey_of_register8 (h : acc.register8 = true) : FitsKey (false, 0xFFC0#16, 0#16) acc := by
  rw [HostAccess.register8, Bool.and_eq_true, beq_iff_eq] at h
  obtain ⟨hw, ha⟩ := h
  exact ⟨by simp [HostAccess.misaligned, hw], ha⟩

theorem fitsKey_of_unmappedAt {m hit : Half} (h : acc.unmappedAt m hit = true) : FitsKey (false, m, hit) acc := by
  rw [HostAccess.unmappedAt, Bool.and_eq_true, Bool.not_eq_true'] at h
  exact h

theorem busErrRows_fitsKey :
    List.Forall₂ (fun row key => ∀ acc, row.1 acc = true → FitsKey key acc) busErrRows busErrKeys := by
  unfold busErrRows busErrKeys
  refine .cons ?_ <| .cons ?_ <| .cons ?_ <| .cons ?_ <| .cons ?_ <| .cons ?_ <| .cons ?_ <| .cons ?_ <| .cons ?_ <|
    .cons ?_ <| .cons ?_ <| .cons ?_ .nil
  case refine_1 | refine_2 | refine_3 => exact fun _ => fitsKey_of_misalignedBy (by decide)
  case refine_4 => exact fun _ => fitsKey_of_register8
  all_goals exact fun _ => fitsKey_of_unmappedAt

/-- Of two keys one takes misaligned accesses and the other does not, or their matches differ where both masks look. -/
theorem busErrKeys_exclusive :
    busErrKeys.Pairwise fun p q => p.1 = q.1 → p.2.2 &&& q.2.1 ≠ q.2.2 &&& p.2.1 := by decide

theorem not_fitsKey_of_fitsKey {j k : Nat} (hj : j < k) (hk : k < busErrKeys.length)
    (h : FitsKey busErrKeys[k] acc) : ¬ FitsKey busErrKeys[j] acc := fun h' =>
  List.pairwise_iff_getElem.mp busErrKeys_exclusive j k (hj.trans hk) hk hj (h'.1.symm.trans h.1)
    (addrHits_agree h'.2 h.2)

/-- An access that a BUSERR row takes decodes to that row: no row before it takes the access. -/
theorem decodeAccess_busErrRow (k : Nat) (hk : k < busErrRows.length) (h : busErrRows[k].1 acc = true) :
    decodeAccess acc = busErrRows[k].2 acc := by
  have hkey (j : Nat) (hj : j < busErrRows.length) (hr : busErrRows[j].1 acc = true) : FitsKey busErrKeys[j] acc :=
    busErrRows_fitsKey.get hj hj acc hr
  have hbefore (j : Nat) (hj : j < k) : (!busErrRows[j].1 acc) = true := by
    rw [Bool.not_eq_true', Bool.eq_false_iff]
    exact fun hr => not_fitsKey_of_fitsKey hj hk (hkey k hk h) (hkey j (hj.trans hk) hr)
  have hf : busErrRows.find? (fun row => row.1 acc) = some busErrRows[k] :=
    List.find?_eq_some_iff_getElem.mpr ⟨h, k, hk, rfl, hbefore⟩
  rw [decodeAccess, hf]

/-- A BUSERR row keeps the access it takes, and is well-formed for just those. -/
theorem busErrRows_wf_encode :
    ∀ row ∈ busErrRows, ∀ acc, (row.2 acc).wf = row.1 acc ∧ encode (row.2 acc) = .bus acc := by
  simp [busErrRows, Instr.wf, encode]

/-! ## Registers and windows by their addresses -/

theorem extract_regAddr (r : BitVec 4) : (regAddr r).extractLsb' 2 4 = r := by
  have := r.isLt
  apply BitVec.eq_of_toNat_eq
  rw [BitVec.extractLsb'_toNat, regAddr_toNat, Nat.shiftRight_eq_div_pow]
  omega

theorem extract_inAddr (j : BitVec 13) : (inAddr j).extractLsb' 0 13 = j := BitVec.extractLsb'_append_eq_right

theorem extract_outAddr (j : BitVec 15) : (outAddr j).extractLsb' 0 15 = j := BitVec.extractLsb'_append_eq_right

theorem windowAligned_iff (n : BusWidth) (j : Nat) : windowAligned n j = true ↔ (n = .w32 → j % 4 = 0) := by
  cases n <;> simp [windowAligned]

theorem decodeAccess_inWindow (hb : ¬ acc.Bad) (h1 : 0x2000 ≤ acc.addr.toNat) (h2 : acc.addr.toNat ≤ 0x3FFF) :
    decodeAccess acc = decodeInWindow acc := by
  rcases decodeAccess_cases acc with ⟨h, _⟩ | ⟨_, h, _⟩ | ⟨_, _, _, h⟩ | ⟨_, h, _⟩
  · exact absurd h hb
  · omega
  · exact h
  · omega

theorem decodeAccess_outWindow (hb : ¬ acc.Bad) (h1 : 0x8000 ≤ acc.addr.toNat) :
    decodeAccess acc = decodeOutWindow acc := by
  rcases decodeAccess_cases acc with ⟨h, _⟩ | ⟨_, h, _⟩ | ⟨_, _, h, _⟩ | ⟨_, _, h⟩
  · exact absurd h hb
  · omega
  · omega
  · exact h

/-- An aligned access to the OUT window is no bus error (46_host_commands.md R250). -/
theorem not_bad_of_outWindow (h1 : 0x8000 ≤ acc.addr.toNat) (h4 : acc.busWidth = .w32 → acc.addr.toNat % 4 = 0) :
    ¬ acc.Bad := by
  rintro (⟨hw, hm⟩ | ⟨-, h⟩ | ⟨-, h⟩ | ⟨-, h⟩)
  · exact hm (h4 hw)
  all_goals omega

theorem decodeAccess_of_regAddr {r : BitVec 4} (hw : acc.busWidth = .w32) (ha : acc.addr = regAddr r) :
    decodeAccess acc = decodeRegister acc := by
  have := r.isLt
  have hn : acc.addr.toNat = 4 * r.toNat := by rw [ha, regAddr_toNat]
  refine decodeAccess_register ?_ (by omega)
  rintro (⟨-, h⟩ | ⟨h, -⟩ | h | h)
  · omega
  · cases hw.symm.trans h
  all_goals omega

theorem decodeAccess_of_inAddr (acc : HostAccess) {j : BitVec 13} (ha : acc.addr = inAddr j)
    (hj : windowAligned acc.busWidth j.toNat = true) : decodeAccess acc = decodeInWindow acc := by
  have := j.isLt
  have ht : acc.addr.toNat = 0x2000 + j.toNat := by rw [ha, inAddr_toNat]
  have h4 (hw : acc.busWidth = .w32) : acc.addr.toNat % 4 = 0 := by
    have := (windowAligned_iff _ _).mp hj hw
    omega
  exact decodeAccess_inWindow (not_bad_of_inWindow (by omega) (by omega) h4) (by omega) (by omega)

theorem decodeAccess_of_outAddr (acc : HostAccess) {j : BitVec 15} (ha : acc.addr = outAddr j)
    (hj : windowAligned acc.busWidth j.toNat = true) : decodeAccess acc = decodeOutWindow acc := by
  have ht : acc.addr.toNat = 0x8000 + j.toNat := by rw [ha, outAddr_toNat]
  have h4 (hw : acc.busWidth = .w32) : acc.addr.toNat % 4 = 0 := by
    have := (windowAligned_iff _ _).mp hj hw
    omega
  exact decodeAccess_outWindow (not_bad_of_outWindow (by omega) h4) (by omega)

theorem decodeAccess_readReg (r : BitVec 4) : decodeAccess (.read .w32 (regAddr r)) = .rdReg r := by
  rw [decodeAccess_of_regAddr rfl rfl, decodeRegister, extract_regAddr]

theorem decodeAccess_writeReg (r : BitVec 4) (v : Word) :
    decodeAccess (.write .w32 (regAddr r) v) = decodeRegWrite r v := by
  rw [decodeAccess_of_regAddr rfl rfl, decodeRegister, extract_regAddr]

theorem decodeAccess_inAddr {n : BusWidth} {j : BitVec 13} (hj : windowAligned n j.toNat = true) :
    decodeAccess (.read n (inAddr j)) = .rdIn n j ∧ ∀ v, decodeAccess (.write n (inAddr j) v) = .wrIn n j v := by
  refine ⟨?_, fun v => ?_⟩
  · rw [decodeAccess_of_inAddr (.read n (inAddr j)) rfl hj, decodeInWindow, extract_inAddr]
  · rw [decodeAccess_of_inAddr (.write n (inAddr j) v) rfl hj, decodeInWindow, extract_inAddr]

theorem decodeAccess_outAddr {n : BusWidth} {j : BitVec 15} (hj : windowAligned n j.toNat = true) :
    decodeAccess (.read n (outAddr j)) = .rdOut n j ∧ ∀ v, decodeAccess (.write n (outAddr j) v) = .wrOut n j v := by
  refine ⟨?_, fun v => ?_⟩
  · rw [decodeAccess_of_outAddr (.read n (outAddr j)) rfl hj, decodeOutWindow, extract_outAddr]
  · rw [decodeAccess_of_outAddr (.write n (outAddr j) v) rfl hj, decodeOutWindow, extract_outAddr]

theorem decodeRegWrite_ignored {r : BitVec 4} (h : ignoredRegister r = true) (v : Word) :
    decodeRegWrite r v = .wrRegIgnored r v := by
  simp only [ignoredRegister, Bool.not_eq_true', Bool.or_eq_false_iff, beq_eq_false_iff_ne] at h
  obtain ⟨⟨⟨h0, h2⟩, h3⟩, h8⟩ := h
  rw [decodeRegWrite, if_neg h0, if_neg h2, if_neg h3, if_neg h8]

/-! ## CTRL writes by their two low bits -/

/-- The command of a CTRL write stands in its two low bits (46_host_commands.md R243). -/
theorem decodeCtrl_append (hi : BitVec 30) (lo : BitVec 2) :
    decodeCtrl (hi ++ lo) =
      if lo.getLsbD 1 then .clear (lo.extractLsb' 0 1) hi else if lo.getLsbD 0 then .start hi else .ctrlNop hi := by
  rw [decodeCtrl, BitVec.extractLsb'_append_eq_left (a := hi) (b := lo),
    BitVec.extractLsb'_append_eq_of_add_le (xhi := hi) (xlo := lo) (by omega)]
  simp only [BitVec.getLsbD_append, Nat.one_lt_ofNat, Nat.ofNat_pos, if_true]

/-- The two low bits of CLEAR, taken one by one. -/
theorem append_clear_bits (hi : BitVec 30) (lo : BitVec 1) : hi ++ 0b1#1 ++ lo = hi ++ (0b1#1 ++ lo) :=
  BitVec.append_assoc

theorem decodeCtrl_clear (hi : BitVec 30) (lo : BitVec 1) : decodeCtrl (hi ++ 0b1#1 ++ lo) = .clear lo hi := by
  have h1 : (0b1#1 ++ lo).getLsbD 1 = true := by rw [BitVec.getLsbD_append]; rfl
  have h0 : (0b1#1 ++ lo).extractLsb' 0 1 = lo := BitVec.extractLsb'_append_eq_right
  exact (congrArg decodeCtrl (append_clear_bits hi lo)).trans (by rw [decodeCtrl_append, if_pos h1, h0])

theorem decodeCtrl_wf_encode (v : Word) :
    (decodeCtrl v).wf = true ∧ encode (decodeCtrl v) = .bus (.write .w32 (regAddr 0#4) v) := by
  have hv : v.extractLsb' 2 30 ++ v.extractLsb' 0 2 = v := BitVec.extractLsb'_append_extractLsb'
  generalize v.extractLsb' 2 30 = hi, v.extractLsb' 0 2 = lo at hv
  subst hv
  have hlo : lo = 0b00#2 ∨ lo = 0b01#2 ∨ lo = 0b10#2 ∨ lo = 0b11#2 := by
    revert lo
    decide
  rw [decodeCtrl_append]
  rcases hlo with rfl | rfl | rfl | rfl
  · exact ⟨rfl, rfl⟩
  · exact ⟨rfl, rfl⟩
  · exact ⟨rfl, congrArg (fun w => Encoded.bus (.write .w32 (regAddr 0#4) w)) (append_clear_bits hi 0#1)⟩
  · exact ⟨rfl, congrArg (fun w => Encoded.bus (.write .w32 (regAddr 0#4) w)) (append_clear_bits hi 1#1)⟩

/-! ## What is decoded encodes the access -/

theorem decodeRegWrite_wf_encode (r : BitVec 4) (v : Word) :
    (decodeRegWrite r v).wf = true ∧ encode (decodeRegWrite r v) = .bus (.write .w32 (regAddr r) v) := by
  unfold decodeRegWrite
  split_ifs with h0 h2 h3 h8
  · exact h0 ▸ decodeCtrl_wf_encode v
  · exact ⟨rfl, h2 ▸ rfl⟩
  · exact ⟨rfl, h3 ▸ rfl⟩
  · exact ⟨rfl, h8 ▸ rfl⟩
  · exact ⟨by simp [Instr.wf, ignoredRegister, h0, h2, h3, h8], rfl⟩

theorem decodeRegister_wf_encode (hb : ¬ acc.Bad) (hr : acc.addr.toNat ≤ 0x3F) :
    (decodeRegister acc).wf = true ∧ encode (decodeRegister acc) = .bus acc := by
  have hw := busWidth_of_register hb hr
  have ha := regAddr_extract hr (aligned_of_not_bad hb hw)
  cases acc with
  | read n a =>
    cases hw
    exact ⟨rfl, congrArg (fun x => Encoded.bus (.read .w32 x)) ha⟩
  | write n a v =>
    cases hw
    obtain ⟨hwf, he⟩ := decodeRegWrite_wf_encode (a.extractLsb' 2 4) v
    exact ⟨hwf, he.trans (congrArg (fun x => Encoded.bus (.write .w32 x v)) ha)⟩

theorem decodeInWindow_wf_encode (hb : ¬ acc.Bad) (h1 : 0x2000 ≤ acc.addr.toNat) (h2 : acc.addr.toNat ≤ 0x3FFF) :
    (decodeInWindow acc).wf = true ∧ encode (decodeInWindow acc) = .bus acc := by
  have ha := inAddr_extract h1 h2
  have hj : windowAligned acc.busWidth (acc.addr.extractLsb' 0 13).toNat = true := by
    rw [windowAligned_iff, inIndex_toNat h1 h2]
    intro hw
    have := aligned_of_not_bad hb hw
    omega
  cases acc with
  | read n a => exact ⟨hj, congrArg (fun x => Encoded.bus (.read n x)) ha⟩
  | write n a v => exact ⟨hj, congrArg (fun x => Encoded.bus (.write n x v)) ha⟩

theorem decodeOutWindow_wf_encode (hb : ¬ acc.Bad) (h1 : 0x8000 ≤ acc.addr.toNat) :
    (decodeOutWindow acc).wf = true ∧ encode (decodeOutWindow acc) = .bus acc := by
  have ha := outAddr_extract h1
  have hj : windowAligned acc.busWidth (acc.addr.extractLsb' 0 15).toNat = true := by
    rw [windowAligned_iff, outIndex_toNat h1]
    intro hw
    have := aligned_of_not_bad hb hw
    omega
  cases acc with
  | read n a => exact ⟨hj, congrArg (fun x => Encoded.bus (.read n x)) ha⟩
  | write n a v => exact ⟨hj, congrArg (fun x => Encoded.bus (.write n x v)) ha⟩

theorem decodeAccess_wf_encode (acc : HostAccess) :
    (decodeAccess acc).wf = true ∧ encode (decodeAccess acc) = .bus acc := by
  rcases decodeAccess_cases acc with ⟨-, row, hm, hr, h⟩ | ⟨hb, hr, h⟩ | ⟨hb, h1, h2, h⟩ | ⟨hb, h1, h⟩ <;> rw [h]
  · obtain ⟨hw, he⟩ := busErrRows_wf_encode row hm acc
    exact ⟨hw.trans hr, he⟩
  · exact decodeRegister_wf_encode hb hr
  · exact decodeInWindow_wf_encode hb h1 h2
  · exact decodeOutWindow_wf_encode hb h1

/-- Settles O4: an element by the phase it is read in, an access by its window. -/
theorem decodedInstructionEncodesTheWords : Obligations.DecodedInstructionEncodesTheWords := by
  refine fun c i => ⟨fun bits hd => decodeStream_readFrom hd, fun acc hd => ?_⟩
  cases hd
  exact decodeAccess_wf_encode acc

/-- Settles O3: an element by its family, an access by its row. -/
theorem decodeOfEncodeIsTheInstruction : Obligations.DecodeOfEncodeIsTheInstruction := by
  intro i c rest hwf hsel heos
  cases i
  case term | num | alnum | byte | unsup0011 | unsup0101 | unsup0110 | unsup0111 | unsup1000 | unsup1001 | unsup1010
      | unsup1011 | unsup1100 | unsup1101 | unsup1110 | unsup1111 =>
    exact decodeStream_tag (eq_of_beq hsel) _ rest
  case eos => exact (decodeStream_dispatch_eq (eq_of_beq hsel) rest).trans (by rw [if_pos (heos rfl)])
  case lenNumB1 l | lenNumB2 l | lenNumB3 l | lenAlnumB1 l | lenAlnumB2 l | lenAlnumB3 l | lenByteB1 l | lenByteB2 l
      | lenByteB3 l =>
    simp only [Ctx.selects, Bool.and_eq_true, beq_iff_eq] at hsel
    obtain ⟨⟨hp, hm⟩, hb⟩ := hsel
    simp [encode, decode, decodeStream_segLen hp, decodeLen, hb, hm, operand_toBits]
  case lenBadVersion =>
    simp only [Ctx.selects, Bool.and_eq_true, beq_iff_eq] at hsel
    obtain ⟨hp, hb⟩ := hsel
    simp [encode, decode, decodeStream_segLen hp, decodeLen, hb]
  case n3 v | a2 v | b8 v =>
    simp only [Ctx.selects, Bool.and_eq_true, beq_iff_eq, decide_eq_true_eq] at hsel
    obtain ⟨⟨hp, hm⟩, hr⟩ := hsel
    have h0 : c.rem ≠ 0#16 := by bv_omega
    simp [encode, decode, decodeStream_segBody hp, decodeGroup, h0, hm, hr, operand_toBits]
  case n2 v | n1 v | a1 v =>
    simp only [Ctx.selects, Bool.and_eq_true, beq_iff_eq] at hsel
    obtain ⟨⟨hp, hm⟩, hr⟩ := hsel
    simp [encode, decode, decodeStream_segBody hp, decodeGroup, hm, hr, operand_toBits]
  case start hi | ctrlNop hi =>
    exact congrArg Except.ok ((decodeAccess_writeReg 0#4 _).trans (decodeCtrl_append hi _))
  case clear lo hi => exact congrArg Except.ok ((decodeAccess_writeReg 0#4 _).trans (decodeCtrl_clear hi lo))
  case wrVersion v | wrInLen v | wrIntEn v => exact congrArg Except.ok (decodeAccess_writeReg _ v)
  case wrRegIgnored r v =>
    exact congrArg Except.ok ((decodeAccess_writeReg r v).trans (decodeRegWrite_ignored hwf v))
  case rdReg r => exact congrArg Except.ok (decodeAccess_readReg r)
  case wrIn n j v => exact congrArg Except.ok ((decodeAccess_inAddr hwf).2 v)
  case rdIn n j => exact congrArg Except.ok (decodeAccess_inAddr hwf).1
  case rdOut n j => exact congrArg Except.ok (decodeAccess_outAddr hwf).1
  case wrOut n j v => exact congrArg Except.ok ((decodeAccess_outAddr hwf).2 v)
  case busErrMisalignedA1 acc => exact congrArg Except.ok (decodeAccess_busErrRow 0 (by decide) hwf)
  case busErrMisalignedA2 acc => exact congrArg Except.ok (decodeAccess_busErrRow 1 (by decide) hwf)
  case busErrMisalignedA3 acc => exact congrArg Except.ok (decodeAccess_busErrRow 2 (by decide) hwf)
  case busErrReg8 acc => exact congrArg Except.ok (decodeAccess_busErrRow 3 (by decide) hwf)
  case busErrUnmapped0040 acc => exact congrArg Except.ok (decodeAccess_busErrRow 4 (by decide) hwf)
  case busErrUnmapped0080 acc => exact congrArg Except.ok (decodeAccess_busErrRow 5 (by decide) hwf)
  case busErrUnmapped0100 acc => exact congrArg Except.ok (decodeAccess_busErrRow 6 (by decide) hwf)
  case busErrUnmapped0200 acc => exact congrArg Except.ok (decodeAccess_busErrRow 7 (by decide) hwf)
  case busErrUnmapped0400 acc => exact congrArg Except.ok (decodeAccess_busErrRow 8 (by decide) hwf)
  case busErrUnmapped0800 acc => exact congrArg Except.ok (decodeAccess_busErrRow 9 (by decide) hwf)
  case busErrUnmapped1000 acc => exact congrArg Except.ok (decodeAccess_busErrRow 10 (by decide) hwf)
  case busErrUnmapped4000 acc => exact congrArg Except.ok (decodeAccess_busErrRow 11 (by decide) hwf)

/-! ## The length rows by VERSION, and words written out -/

/-- The ranges of 30_encoding.md R94 are disjoint, so each gives its band. -/
theorem band_eq_b2 {v : BitVec 8} (h : 10 ≤ v.toNat ∧ v.toNat ≤ 26) : band v = some .b2 := by
  rw [band, if_neg (by omega), if_pos h]

theorem band_eq_b3 {v : BitVec 8} (h : 27 ≤ v.toNat ∧ v.toNat ≤ 40) : band v = some .b3 := by
  rw [band, if_neg (by omega), if_neg (by omega), if_pos h]

theorem band_eq_none {v : BitVec 8} (h : v.toNat = 0 ∨ 41 ≤ v.toNat) : band v = none := by
  rw [band, if_neg (by omega), if_neg (by omega), if_neg (by omega)]

/-- Settles O5: the range of VERSION is its band, and the band and MODE name the row. -/
theorem versionAndModeSelectTheLengthRow : Obligations.VersionAndModeSelectTheLengthRow := by
  intro v r bits row
  refine ⟨fun h => ?_, fun h => ?_, fun h => ?_, fun h m => ?_⟩
  · have hb : band v = some .b1 := if_pos h
    simp [row, decodeStream, decodeLen, hb]
  · simp [row, decodeStream, decodeLen, band_eq_b2 h]
  · simp [row, decodeStream, decodeLen, band_eq_b3 h]
  · simp [row, decodeStream, decodeLen, band_eq_none h]

/-- Settles O6: each word is closed, and the decoder runs on it. -/
theorem wordsWrittenOutDecodeAsTheSpecSays : Obligations.WordsWrittenOutDecodeAsTheSpecSays :=
  ⟨rfl, rfl, rfl, rfl, rfl, rfl, rfl, rfl, rfl, rfl, rfl⟩

end Sys2Proof.Machine
end

section
/-! PROOFS. The family of 40_bit_cursor.md: what ReadBits reads, and that IN_MEM reaches the core through it alone. -/

namespace Sys2Proof.Machine

variable {s t : State}

/-! ## ReadBits, bit by bit -/

/-- The bits of an operand in stream order, first bit most significant (20_memory.md R63). -/
theorem operand_getLsbD {n j : Nat} {bits : List Bool} (hn : n ≤ bits.length) (hj : j < n) :
    (operand n bits).getLsbD (n - 1 - j) = bits[j] := by
  have h := toBits_getElem n (operand n bits).toNat j (by simpa using hj)
  simp only [toBits_operand hn, List.getElem_take] at h
  exact h.symm

/-- Settles O10: a field that fits is the operand of the next bits, one that does not changes nothing. -/
theorem readBitsReadsMostSignificantFirst : Obligations.ReadBitsReadsMostSignificantFirst := by
  intro s n h1 h16
  refine ⟨fun hshort => ?_, fun hroom => ?_⟩
  · exact State.readBits_of_not_fits h1 h16 fun hf => by
      rw [State.fits_iff] at hf
      omega
  · have hf : s.fits n = true := (State.fits_iff n s).mpr hroom
    have hlen : n ≤ s.nextBits.length := Nat.not_lt.mp fun hlt => (State.nextBits_short_iff s h1 h16).mp hlt hf
    refine ⟨(operand n s.nextBits).setWidth 16, State.readBits_of_fits h1 h16 hf, ?_, fun j hj => ?_⟩
    · rw [BitVec.toNat_setWidth]
      exact (Nat.mod_le _ _).trans_lt (operand n s.nextBits).isLt
    · have h16' : n - 1 - j < 16 := by omega
      rw [BitVec.getLsbD_setWidth, decide_eq_true h16', Bool.true_and, operand_getLsbD hlen hj,
        State.nextBits_getElem, State.streamBit]

/-! ## Past the fetch the core does not look at IN_MEM -/

/-- An update that neither reads nor writes IN_MEM: replacing the buffer before it or after it is the same. -/
def IgnoresInMem (f : State → State) : Prop :=
  ∀ (m : Memory) (s : State), f { s with inMem := m } = { f s with inMem := m }

theorem ignoresInMem_needBits {k : State → State} (hk : IgnoresInMem k) (n : Nat) : IgnoresInMem (needBits n k) := by
  intro m s
  change (if s.fits n = true then k { s.advance n with inMem := m } else _) = _
  rw [hk, needBits]
  split <;> rfl

theorem ignoresInMem_ite {p : Prop} [Decidable p] {f g : State → State} (hf : IgnoresInMem f) (hg : IgnoresInMem g) :
    IgnoresInMem fun s => if p then f s else g s := by
  intro m s
  dsimp only
  split
  · exact hf m s
  · exact hg m s

theorem ignoresInMem_append {k : State → State} (hk : IgnoresInMem k) (bs : List Byte) : IgnoresInMem (append bs k) := by
  intro m s
  change (if s.cfg.outCap < s.outPtr.toNat + bs.length then _ else k { s.appended bs with inMem := m }) = _
  rw [hk, append]
  split <;> rfl

theorem ignoresInMem_numericGroup {done : State → State} (hd : IgnoresInMem done) (w k v : Nat) :
    IgnoresInMem (numericGroup w k v done) := by
  refine ignoresInMem_needBits (fun m s => ?_) w
  dsimp only
  cases decDigits s.cfg.numOvr v k with
  | none => rfl
  | some bs => exact ignoresInMem_append hd bs m s

/-- An instruction that always has a next state, got by an update that ignores IN_MEM. -/
def ExecIgnoresInMem (i : Instr) : Prop := ∃ f, IgnoresInMem f ∧ ∀ s, exec i s = .next (f s)

theorem decodeTag_ignoresInMem (tag : BitVec 4) : ExecIgnoresInMem (decodeTag tag) := by
  rcases decodeTag_cases tag with ⟨_, hd⟩ | ⟨_, hd⟩ | ⟨_, hd⟩ | ⟨_, hd⟩ | ⟨_, hd⟩
  case inr.inr.inr.inr => exact ⟨_, fun _ _ => rfl, hd⟩
  all_goals rw [hd]; exact ⟨_, fun _ _ => rfl, fun _ => rfl⟩

theorem decodeLen_ignoresInMem {c : Ctx} {bits : List Bool} {i : Instr} (hd : decodeLen c bits = .ok i) :
    ExecIgnoresInMem i := by
  rcases decodeLen_cases hd with rfl | ⟨w, l, he⟩
  · exact ⟨fun s => s.raise .unsupportedVersion (s.version.setWidth 16), fun _ _ => rfl, fun _ => rfl⟩
  · exact ⟨lengthField w l, ignoresInMem_needBits (fun _ _ => rfl) w, he⟩

/-- A group row reads its field, then raises or appends; the value read comes with the instruction. -/
theorem decodeGroup_ignoresInMem {c : Ctx} {bits : List Bool} {i : Instr} (hd : decodeGroup c bits = .ok i) :
    ExecIgnoresInMem i := by
  unfold decodeGroup at hd
  split at hd
  · cases hd
  cases hm : c.mode <;> simp only [hm] at hd
  case num =>
    split_ifs at hd <;> cases hd <;>
      exact ⟨_, ignoresInMem_numericGroup (fun _ _ => rfl) _ _ _, fun _ => rfl⟩
  case alnum =>
    split_ifs at hd <;> cases hd <;>
      exact ⟨_, ignoresInMem_needBits (ignoresInMem_ite (fun _ _ => rfl) (ignoresInMem_append (fun _ _ => rfl) _)) _,
        fun _ => rfl⟩
  case byte =>
    cases hd
    exact ⟨_, ignoresInMem_needBits (ignoresInMem_append (fun _ _ => rfl) _) _, fun _ => rfl⟩
  case mode3 => cases hd

/-- Once its element is decoded, a core step ignores IN_MEM: the Bit Cursor is its only reader (40_bit_cursor.md R125). -/
theorem decodeStream_ignoresInMem {c : Ctx} {bits : List Bool} {i : Instr} (hd : decodeStream c bits = .ok i) :
    ExecIgnoresInMem i := by
  cases hp : c.phase with
  | dispatch =>
    rw [decodeStream_dispatch_eq hp] at hd
    cases hd
    split_ifs
    · exact ⟨State.finishOk, fun _ _ => rfl, fun _ => rfl⟩
    · exact decodeTag_ignoresInMem _
  | segLen => exact decodeLen_ignoresInMem (decodeStream_segLen hp bits ▸ hd)
  | segBody => exact decodeGroup_ignoresInMem (decodeStream_segBody hp bits ▸ hd)
  | phase3 => simp [decodeStream_phase3 hp] at hd

/-- A core step ignores IN_MEM but for the bits it decodes. -/
theorem step_replaced_inMem {m : Memory} (hc : s.coreNext) (hbits : State.nextBits { s with inMem := m } = s.nextBits)
    (hs : step s = .next t) : step { s with inMem := m } = .next { t with inMem := m } := by
  rw [step_core hc] at hs
  rw [step_core (s := { s with inMem := m }) hc, hbits]
  cases hd : decodeStream s.ctx s.nextBits with
  | error r =>
    rw [hd] at hs
    cases hs
  | ok i =>
    obtain ⟨f, hf, he⟩ := decodeStream_ignoresInMem hd
    simp only [hd, he] at hs
    cases hs
    exact (he _).trans (congrArg _ (hf m s.popped))

/-- Settles O48: the two states decode the same element, and the step keeps IN_LEN and the bytes below it. -/
theorem bytesPastInLenHaveNoEffect : Obligations.BytesPastInLenHaveNoEffect := by
  rintro s t s' ⟨ht, hbytes⟩ hc hs
  generalize t.inMem = m at ht
  subst ht
  have hbits : State.nextBits { s with inMem := m } = s.nextBits :=
    State.nextBits_congr rfl rfl fun j hj => (hbytes j hj).symm
  obtain ⟨-, hlen, -, -, -, hm, hpast⟩ := (step_coreEffect hc hs).keeps_inputs
  refine ⟨{ s' with inMem := m }, step_replaced_inMem hc hbits hs, rfl, fun j hj => ?_⟩
  have hj' : j < s.inLen.toNat := hj.trans_eq (congrArg BitVec.toNat hlen)
  calc s'.inByte j
    _ = s.inByte j := State.inByte_congr hm hpast j
    _ = State.inByte { s with inMem := m } j := hbytes j hj'
    _ = State.inByte { s' with inMem := m } j :=
      (State.inByte_congr (s := { s with inMem := m }) (t := { s' with inMem := m }) rfl hpast j).symm

end Sys2Proof.Machine
end

section
/-! PROOFS. The family of 41_dispatcher.md: the step against the spec's pseudocode, the tag and length steps, and the end of
every decode. -/

namespace Sys2Proof.Machine

variable {s : State}

/-! ## Whose turn it is -/

/-- Settles O7, by the equations of a core step and of a host access. -/
theorem stepRunsTheDecodedInstruction : Obligations.StepRunsTheDecodedInstruction := by
  refine ⟨fun s i hc hd => ?_, fun s acc rest i hl hp hd => ?_⟩
  · change decodeStream s.ctx s.nextBits = .ok i at hd
    rw [step_core hc, hd]
  · cases hd
    exact step_bus hl hp

/-- Outside BUSY a turn of the core that is pending is only taken from the list (41_dispatcher.md R140). -/
theorem step_core_of_not_busy {rest : List Event} (hl : s.cfg.legal = true) (hb : s.st ≠ .busy)
    (hp : s.pending = .core :: rest) : step s = .next { s with pending := rest } := by
  rw [step, if_pos hl, State.nextTurn, hp]
  simp only [State.coreTurn, if_neg hb]

/-- Settles O8: with no event the machine waits, and a pending turn passes. -/
theorem coreHasNoStepOutsideBusy : Obligations.CoreHasNoStepOutsideBusy :=
  fun _ hl hb => ⟨step_wait hl hb, fun _ => step_core_of_not_busy hl hb⟩

/-- During a decode a good state holds no value that the decoder has no row for (93 U14, 10_state.md R25). -/
theorem State.Good.not_stuck (h : s.Good) (hb : s.st = .busy) : ¬ Pseudo.Stuck s := by
  rintro (hp | ⟨-, -, hm⟩ | ⟨hp, hm | hr⟩)
  · exact h.phaseLegal hp
  · exact h.modeLegal hm
  · exact h.modeLegal hm
  · exact h.bodyRem hb hp hr

/-- Outside the stuck states the decoder has a row for the element at OFFSET. -/
theorem decodeStream_ok_of_not_stuck (h : ¬ Pseudo.Stuck s) : ∃ i, decodeStream s.ctx s.nextBits = .ok i := by
  cases hd : decodeStream s.ctx s.nextBits with
  | ok i => exact ⟨i, rfl⟩
  | error r => exact absurd ((decodeStream_error_iff_stuck s _).mp ⟨r, hd⟩) h

/-- A core step from a good state has a next state. -/
theorem State.Good.step_core_next (h : s.Good) (hc : s.coreNext) : ∃ t, step s = .next t := by
  obtain ⟨i, hi⟩ := decodeStream_ok_of_not_stuck (h.not_stuck hc.2.1)
  obtain ⟨t, ht, -⟩ := exec_coreEffect (s := s.popped) hi
  exact ⟨t, by rw [step_core hc, hi, ← ht]⟩

/-- Settles O42, by the next event: the core steps or waits, an access has a row, and rst resets. -/
theorem goodStateNeverStops : Obligations.GoodStateNeverStops := by
  intro s h
  have hl := h.legal
  by_cases hc : s.coreNext
  · exact h.step_core_next hc
  cases hp : s.pending with
  | nil => exact ⟨s, step_wait hl (fun hb => hc ⟨hl, hb, .inl hp⟩) hp⟩
  | cons e rest =>
    cases e with
    | core => exact ⟨_, step_core_of_not_busy hl (fun hb => hc ⟨hl, hb, .inr ⟨rest, hp⟩⟩) hp⟩
    | bus acc =>
      obtain ⟨t, ht, -⟩ := exec_hostEffect acc s.popped
      exact ⟨t, (step_bus hl hp).trans ht⟩
    | rst => exact ⟨_, by rw [step, if_pos hl, State.nextTurn, hp]⟩

/-! ## Tags -/

/-- Where 4 bits are left the row is that of the tag they hold (30_encoding.md R92). -/
theorem decodeStream_of_fits (hp : s.phase = .dispatch) (hf : s.fits 4 = true) :
    decodeStream s.ctx s.nextBits = .ok (decodeTag (operand 4 s.nextBits)) := by
  have hlen : ¬ s.nextBits.length < 4 := fun h => (State.nextBits_short_iff s (by decide) (by decide)).mp h hf
  rw [decodeStream_dispatch_eq hp, if_neg hlen]

/-- Where fewer than 4 bits are left the row is EOS (41_dispatcher.md R142). -/
theorem decodeStream_of_not_fits (hp : s.phase = .dispatch) (hf : ¬ s.fits 4 = true) :
    decodeStream s.ctx s.nextBits = .ok .eos := by
  rw [decodeStream_dispatch_eq hp, if_pos ((State.nextBits_short_iff s (by decide) (by decide)).mpr hf)]

/-- Where ReadBits(4) gives a value the step runs the row of that tag (41_dispatcher.md R141). -/
theorem step_tag (hc : s.coreNext) (hp : s.phase = .dispatch) {v : Half} (hv : (s.readBits 4).1 = some v) :
    s.fits 4 = true ∧ step s = exec (decodeTag (v.setWidth 4)) s.popped := by
  by_cases hf : s.fits 4 = true
  · rw [State.readBits_of_fits (by decide) (by decide) hf] at hv
    cases hv
    rw [step_core hc, decodeStream_of_fits hp hf, BitVec.setWidth_setWidth_of_le _ (by decide), BitVec.setWidth_eq]
    exact ⟨hf, rfl⟩
  · rw [State.readBits_of_not_fits (by decide) (by decide) hf] at hv
    cases hv

/-- Where ReadBits(4) gives nothing the step is EOS (41_dispatcher.md R142). -/
theorem step_eos (hc : s.coreNext) (hp : s.phase = .dispatch) (hv : (s.readBits 4).1 = none) :
    step s = exec .eos s.popped := by
  by_cases hf : s.fits 4 = true
  · rw [State.readBits_of_fits (by decide) (by decide) hf] at hv
    cases hv
  · rw [step_core hc, decodeStream_of_not_fits hp hf]

/-- OFFSET as a number after a tag that was read, in the state where its row runs. -/
theorem tag_offset_toNat (hs : s.Sized) (hf : s.fits 4 = true) :
    (s.popped.advance 4).offset.toNat = s.offset.toNat + 4 :=
  State.advance_offset_toNat (s := s.popped) hs ((State.fits_iff 4 s).mp hf)

/-- Settles O11: each of the three tags has the row of its mode. -/
theorem segmentTagEntersTheSegment : Obligations.SegmentTagEntersTheSegment := by
  intro s i m v hs hc hp hi hv
  obtain ⟨hf, hstep⟩ := step_tag hc hp hv
  have hrow : decodeTag (v.setWidth 4) = i ∧ exec i s.popped = .next (segmentTag m s.popped) := by
    simp only [List.mem_cons, List.not_mem_nil, or_false, Prod.mk.injEq] at hi
    rcases hi with ⟨rfl, rfl, rfl⟩ | ⟨rfl, rfl, rfl⟩ | ⟨rfl, rfl, rfl⟩ <;> exact ⟨rfl, rfl⟩
  obtain ⟨hdec, hexec⟩ := hrow
  rw [hdec] at hstep
  exact ⟨_, hstep.trans hexec, hexec, tag_offset_toNat hs hf, rfl, rfl, rfl⟩

/-- Settles O12: the row is TERM's or EOS's, and neither looks at VERSION. -/
theorem termAndEndOfStreamFinish : Obligations.TermAndEndOfStreamFinish := by
  intro s hs hc hp
  refine ⟨fun hv => ?_, fun hv => ?_⟩
  · obtain ⟨hf, hstep⟩ := step_tag hc hp hv
    exact ⟨_, hstep, rfl, rfl, tag_offset_toNat hs hf, rfl⟩
  · exact ⟨_, step_eos hc hp hv, rfl, rfl, rfl⟩

/-! ## Length fields -/

/-- Each row with a length field runs as that field, whatever the state (41_dispatcher.md R148). -/
theorem exec_lengthRow {i : Instr} {w l : Nat} (h : lengthRow i = some (w, l)) :
    ∃ v : Half, v.toNat = l ∧ ∀ s, exec i s = .next (lengthField w v s) := by
  unfold lengthRow at h
  split at h <;> cases h
  case h_8 l | h_9 l => exact ⟨l, rfl, fun _ => rfl⟩
  all_goals exact ⟨_, BitVec.toNat_setWidth_of_le (by decide), fun _ => rfl⟩

/-- Settles O14: the field fits, so the row loads it. -/
theorem lengthFieldLoadsRem : Obligations.LengthFieldLoadsRem := by
  intro s i w l hs hrow hroom
  obtain ⟨v, rfl, hexec⟩ := exec_lengthRow hrow
  have hload : lengthField w v s = (s.advance w).loadLength v :=
    needBits_of_fits _ ((State.fits_iff w s).mpr hroom)
  have hzero : v = 0#16 ↔ v.toNat = 0 := BitVec.toNat_inj.symm
  refine ⟨_, (hexec s).trans (congrArg _ hload), State.advance_offset_toNat hs hroom, rfl, fun h0 => ?_, fun h0 => ?_, rfl⟩
  · rw [State.loadLength_phase, if_pos (hzero.mpr h0)]
  · rw [State.loadLength_phase, if_neg (mt hzero.mp h0)]

/-! ## The end of every decode -/

/-- With no event pending a core step from a good state leaves a good state, again with none pending, and either the decode has
ended or OFFSET is at least 4 further, still inside the same stream (41_dispatcher.md R152). -/
theorem State.Good.step_alone (h : s.Good) (hb : s.st = .busy) (hp : s.pending = []) :
    ∃ t, step s = .next t ∧ t.Good ∧ t.pending = [] ∧ t.inLen = s.inLen ∧
      (t.st = .doneOk ∨ t.st = .doneErr ∨ t.st = .busy ∧ s.offset.toNat + 4 ≤ t.offset.toNat) := by
  have hc : s.coreNext := ⟨h.legal, hb, .inl hp⟩
  obtain ⟨t, ht⟩ := h.step_core_next hc
  have he := step_coreEffect hc ht
  rw [State.popped_of_nil hp] at he
  refine ⟨t, ht, stepKeepsGood s t h ht, he.keeps_pending.trans hp, he.keeps_inputs.2.1, ?_⟩
  obtain ⟨-, -, hmove, -⟩ := coreStepConsumesTheStream s t h hc ht
  rcases he.st_cases with hst | hst | hst
  · exact .inr (.inr ⟨hst.trans hb, hmove (hst.trans hb)⟩)
  · exact .inl hst
  · exact .inr (.inl hst)

/-- A decode with fewer than 4·n bits left ends within n steps of the core. -/
theorem State.Good.decode_ends (n : Nat) {s : State} (h : s.Good) (hb : s.st = .busy) (hp : s.pending = [])
    (hleft : 8 * s.inLen.toNat - s.offset.toNat < 4 * n) :
    ∃ k t, k ≤ n ∧ Host.Core.run core k s = .next t ∧ (t.st = .doneOk ∨ t.st = .doneErr) := by
  induction n generalizing s with
  | zero => omega
  | succ n ih =>
    obtain ⟨t, ht, hg, hpt, hlen, hend⟩ := h.step_alone hb hp
    rw [← or_assoc] at hend
    rcases hend with hend | ⟨hbt, hmove⟩
    · exact ⟨1, t, by omega, run_succ_iff.mpr ⟨t, ht, rfl⟩, hend⟩
    · have hle := hg.offsetLe hbt
      rw [hlen] at hle
      obtain ⟨k, u, hk, hrun, hu⟩ := ih hg hbt hpt (by rw [hlen]; omega)
      exact ⟨k + 1, u, by omega, run_succ_iff.mpr ⟨t, ht, hrun⟩, hu⟩

/-- Settles O50: at most 8·IN_LEN bits are left, fewer than 4 for each step of the bound. -/
theorem decodeEndsWithinTheBound : Obligations.DecodeEndsWithinTheBound :=
  fun s h hb hp => h.decode_ends (2 * s.inLen.toNat + 1) hb hp (by omega)

/-! ## The spec's pseudocode, over the operations of the model -/

/-- How the pseudocode reads a field of a length or a group: InsufficientBits where ReadBits gives nothing, else the rest of
the step with the value read. -/
def readOrRaise (n : Nat) (rest : Half → State → State) (s : State) : State :=
  match s.readBits n with
  | (none, t) => Pseudo.raise .insufficientBits n t
  | (some v, t) => rest v t

/-- How the pseudocode appends: OutputOverflow where Append gives nothing, else the rest of the step. -/
def appendOrRaise (bs : List Byte) (rest : State → State) (s : State) : State :=
  match Pseudo.appendBytes bs s with
  | none => Pseudo.raise .outputOverflow 0 s
  | some u => rest u

/-- The pseudocode gives ERR_INFO as a number, the model as a half-word. -/
theorem raise_toNat (e : ErrCode) {n : Nat} (v : BitVec n) (s : State) :
    Pseudo.raise e v.toNat s = s.raise e (v.setWidth 16) := by
  rw [Pseudo.raise, BitVec.ofNat_toNat]
  rfl

/-- The value that ReadBits gives is the operand that the decoder hands to the row. -/
theorem readOrRaise_eq_needBits {n : Nat} (h1 : 1 ≤ n) (h16 : n ≤ 16) {rest : Half → State → State} {k : State → State}
    (hk : rest ((operand n s.nextBits).setWidth 16) (s.advance n) = k (s.advance n)) :
    readOrRaise n rest s = needBits n k s := by
  by_cases hf : s.fits n = true
  · rw [readOrRaise, State.readBits_of_fits h1 h16 hf, needBits_of_fits _ hf, ← hk]
  · rw [readOrRaise, State.readBits_of_not_fits h1 h16 hf, needBits_of_not_fits _ hf]
    rfl

/-- A field of at most 16 bits keeps its value as a half-word. -/
theorem operand_setWidth_toNat {n : Nat} (h16 : n ≤ 16) (bits : List Bool) :
    ((operand n bits).setWidth 16).toNat = (operand n bits).toNat :=
  BitVec.toNat_setWidth_of_le h16

/-- Append of the model and of the pseudocode, with rests that agree once the bytes are written. -/
theorem appendOrRaise_eq_append {bs : List Byte} {rest done : State → State}
    (hd : rest (s.appended bs) = done (s.appended bs)) : appendOrRaise bs rest s = append bs done s := by
  rcases append_cases bs done s with ⟨hc, h⟩ | ⟨hc, h⟩
  · rw [h, ← hd, appendOrRaise, Pseudo.appendBytes, if_neg (by omega)]
    simp [State.appended, BitVec.ofNat_add]
  · rw [h, appendOrRaise, Pseudo.appendBytes, if_pos hc]
    rfl

/-- REM less `k`, where a group counts no more than REM. -/
theorem countDown_eq_consume {k : Nat} (h : k ≤ s.rem.toNat) : Pseudo.countDown k s = s.consume (BitVec.ofNat 16 k) := by
  have hr : BitVec.ofNat 16 (s.rem.toNat - k) = s.rem - BitVec.ofNat 16 k := by
    have := s.rem.isLt
    apply BitVec.eq_of_toNat_eq
    rw [BitVec.toNat_ofNat, BitVec.toNat_sub, BitVec.toNat_ofNat]
    omega
  simp only [Pseudo.countDown, State.consume, hr]

/-- (k << 12) | v of 60_exceptions.md R275 as a sum: the value of a numeric group has at most 10 bits. -/
theorem numericInfo_eq {v : Nat} (k : Nat) (hv : v < 2 ^ 12) : numericInfo v k = BitVec.ofNat 16 (k * 4096 + v) := by
  have h : k * 4096 + v = k <<< 12 ||| v := by
    rw [← Nat.shiftLeft_add_eq_or_of_lt hv, Nat.shiftLeft_eq]
  apply BitVec.eq_of_toNat_eq
  simp only [numericInfo, h, BitVec.toNat_or, BitVec.toNat_shiftLeft, BitVec.toNat_ofNat, Nat.or_mod_two_pow,
    Nat.shiftLeft_eq, Nat.mod_mul_mod]

/-! ## Groups -/

section AppendDigits

variable {v k : Nat} {rest done : State → State}

/-- DecDigits in range, then Append (42_numeric.md R175). -/
theorem appendDigits_in_range (hv : v < 10 ^ k) (hd : ∀ bs, rest (s.appended bs) = done (s.appended bs)) :
    Pseudo.appendDigits v k rest s = append (decimal k v) done s := by
  rw [Pseudo.appendDigits, if_pos hv, ← appendOrRaise_eq_append (hd _)]
  rfl

/-- DecDigits over range under WIDE, then Append (42_numeric.md R176). -/
theorem appendDigits_wide (hv : 10 ^ k ≤ v) (ho : s.cfg.numOvr = .wide)
    (hd : ∀ bs, rest (s.appended bs) = done (s.appended bs)) :
    Pseudo.appendDigits v k rest s = append (decimal (k + 1) v) done s := by
  rw [Pseudo.appendDigits, if_neg (by omega), ho, ← appendOrRaise_eq_append (hd _)]
  rfl

/-- DecDigits over range under FAULT (42_numeric.md R176, 60_exceptions.md R275). -/
theorem appendDigits_fault (hv : 10 ^ k ≤ v) (ho : s.cfg.numOvr = .fault) (h12 : v < 2 ^ 12) :
    Pseudo.appendDigits v k rest s = s.raise .invalidNumericValue (numericInfo v k) := by
  rw [Pseudo.appendDigits, if_neg (by omega), ho, numericInfo_eq k h12]
  rfl

end AppendDigits

/-- A numeric group of the pseudocode is the one of the model, with rests that agree on every state whose REM is as before. -/
theorem readDigits_eq_numericGroup {w k : Nat} {rest done : State → State} (h1 : 1 ≤ w) (h12 : w ≤ 12)
    (hd : ∀ u : State, u.rem = s.rem → rest u = done u) :
    readOrRaise w (fun v => Pseudo.appendDigits v.toNat k rest) s =
      numericGroup w k (operand w s.nextBits).toNat done s := by
  have hlt : (operand w s.nextBits).toNat < 2 ^ 12 :=
    (operand w s.nextBits).isLt.trans_le (Nat.pow_le_pow_right (by decide) h12)
  have hd' : ∀ bs, rest ((s.advance w).appended bs) = done ((s.advance w).appended bs) := fun bs => hd _ rfl
  refine readOrRaise_eq_needBits h1 (by omega) ?_
  rw [operand_setWidth_toNat (by omega)]
  rcases Nat.lt_or_ge (operand w s.nextBits).toNat (10 ^ k) with hv | hv
  · rw [appendDigits_in_range hv hd', decDigits_in_range _ hv]
  · cases ho : (s.advance w).cfg.numOvr with
    | wide => rw [appendDigits_wide hv ho hd', decDigits_wide hv]
    | fault => rw [appendDigits_fault hv ho hlt, decDigits_fault hv]

/-- NumTriple (42_numeric.md R171). -/
theorem exec_n3_eq_pseudo (h3 : 3 ≤ s.rem.toNat) :
    exec (.n3 (operand 10 s.nextBits)) s = .next (Pseudo.numTriple s) :=
  congrArg _ (readDigits_eq_numericGroup (by decide) (by decide) fun u hu => countDown_eq_consume (by rwa [hu])).symm

/-- NumPair (42_numeric.md R172). -/
theorem exec_n2_eq_pseudo : exec (.n2 (operand 7 s.nextBits)) s = .next (Pseudo.numPair s) :=
  congrArg _ (readDigits_eq_numericGroup (by decide) (by decide) fun _ _ => rfl).symm

/-- NumSingle (42_numeric.md R173). -/
theorem exec_n1_eq_pseudo : exec (.n1 (operand 4 s.nextBits)) s = .next (Pseudo.numSingle s) :=
  congrArg _ (readDigits_eq_numericGroup (by decide) (by decide) fun _ _ => rfl).symm

/-- AlnumPair (43_alphanumeric.md R192). -/
theorem exec_a2_eq_pseudo (h2 : 2 ≤ s.rem.toNat) :
    exec (.a2 (operand 11 s.nextBits)) s = .next (Pseudo.alnumPair s) := by
  refine congrArg _ (readOrRaise_eq_needBits (by decide) (by decide) ?_).symm
  dsimp only
  rw [operand_setWidth_toNat (by decide)]
  by_cases hv : 44 < (operand 11 s.nextBits).toNat / 45
  · rw [if_pos hv, if_pos hv, raise_toNat]
  · rw [if_neg hv, if_neg hv]
    exact appendOrRaise_eq_append (countDown_eq_consume h2)

/-- The mark of a single index, bit 15, as a sum (43_alphanumeric.md R193). -/
theorem singleInfo_eq (v : BitVec 6) : 0x8000#16 ||| v.setWidth 16 = BitVec.ofNat 16 (0x8000 + v.toNat) := by
  revert v
  decide

/-- AlnumSingle (43_alphanumeric.md R193). -/
theorem exec_a1_eq_pseudo : exec (.a1 (operand 6 s.nextBits)) s = .next (Pseudo.alnumSingle s) := by
  refine congrArg _ (readOrRaise_eq_needBits (by decide) (by decide) ?_).symm
  rw [operand_setWidth_toNat (by decide)]
  by_cases hv : 44 < (operand 6 s.nextBits).toNat
  · rw [if_pos hv, if_pos hv, singleInfo_eq]
    rfl
  · rw [if_neg hv, if_neg hv]
    exact appendOrRaise_eq_append rfl

/-- ByteStep (44_byte.md R211). -/
theorem exec_b8_eq_pseudo (h1 : 1 ≤ s.rem.toNat) :
    exec (.b8 (operand 8 s.nextBits)) s = .next (Pseudo.byteStep s) := by
  refine congrArg _ (readOrRaise_eq_needBits (by decide) (by decide) ?_).symm
  rw [BitVec.setWidth_setWidth_of_le _ (by decide), BitVec.setWidth_eq]
  exact appendOrRaise_eq_append (countDown_eq_consume h1)

/-- The body step, by MODE and REM (42_numeric.md R170, 43_alphanumeric.md R191). -/
theorem exec_group_eq_coreStep {i : Instr} (hp : s.phase = .segBody) (hd : decodeGroup s.ctx s.nextBits = .ok i) :
    exec i s = .next (Pseudo.coreStep s) := by
  have h0 : s.rem ≠ 0#16 := fun h => by simp [decodeGroup, h] at hd
  rw [decodeGroup, if_neg h0] at hd
  rw [Pseudo.coreStep, hp]
  cases hm : s.mode <;> simp only [hm] at hd
  case num =>
    dsimp only
    rw [Pseudo.numStep]
    split_ifs at hd with h3 h2 <;> cases hd
    · rw [if_pos h3]
      exact exec_n3_eq_pseudo h3
    · rw [if_neg h3, if_pos (by rw [h2]; rfl)]
      exact exec_n2_eq_pseudo
    · rw [if_neg h3, if_neg (by bv_omega)]
      exact exec_n1_eq_pseudo
  case alnum =>
    dsimp only
    rw [Pseudo.alnumStep]
    split_ifs at hd with h2 <;> cases hd
    · rw [if_pos h2]
      exact exec_a2_eq_pseudo h2
    · rw [if_neg h2]
      exact exec_a1_eq_pseudo
  case byte =>
    cases hd
    exact exec_b8_eq_pseudo (by bv_omega)
  case mode3 => cases hd

/-! ## Length fields and tags -/

/-- A length row is LEN.BADVERSION, or reads a field as wide as the WIDTH ROM says (30_encoding.md R94, R95). -/
theorem decodeLen_row {c : Ctx} {bits : List Bool} {i : Instr} (hd : decodeLen c bits = .ok i) :
    (band c.version = none ∧ i = .lenBadVersion) ∨
    ∃ b w, band c.version = some b ∧ width c.mode b = some w ∧ 1 ≤ w ∧ w ≤ 16 ∧
      ∀ s, exec i s = .next (lengthField w ((operand w bits).setWidth 16) s) := by
  unfold decodeLen at hd
  cases hb : band c.version with
  | none =>
    rw [hb] at hd
    cases hd
    exact .inl ⟨rfl, rfl⟩
  | some b =>
    rw [hb] at hd
    refine .inr ⟨b, ?_⟩
    cases hm : c.mode <;> rw [hm] at hd <;> cases b <;> cases hd <;>
      exact ⟨_, rfl, rfl, by decide, by decide, fun _ => rfl⟩

/-- SegLenStep (41_dispatcher.md R148). -/
theorem exec_len_eq_pseudo {i : Instr} (hd : decodeLen s.ctx s.nextBits = .ok i) :
    exec i s = .next (Pseudo.segLenStep s) := by
  rcases decodeLen_row hd with ⟨hb, rfl⟩ | ⟨b, w, hb, hw, h1, h16, hexec⟩
  · rw [Pseudo.segLenStep, hb]
    exact congrArg _ (raise_toNat ..).symm
  · rw [hexec, Pseudo.segLenStep, hb]
    simp only [hw]
    exact congrArg _ (readOrRaise_eq_needBits h1 h16 rfl).symm

/-- A tag that is none of the four stays none of them as the half-word that ReadBits gives. -/
theorem tag_setWidth_ne {t : BitVec 4} (h : ¬ (t = 0#4 ∨ t = 1#4 ∨ t = 2#4 ∨ t = 4#4)) :
    t.setWidth 16 ≠ 0#16 ∧ t.setWidth 16 ≠ 1#16 ∧ t.setWidth 16 ≠ 2#16 ∧ t.setWidth 16 ≠ 4#16 := by
  revert t
  decide

/-- DispatchStep (41_dispatcher.md R141). -/
theorem exec_tag_eq_pseudo {i : Instr} (hp : s.phase = .dispatch) (hd : decodeStream s.ctx s.nextBits = .ok i) :
    exec i s = .next (Pseudo.dispatchStep s) := by
  rw [Pseudo.dispatchStep]
  by_cases hf : s.fits 4 = true
  · cases hd.symm.trans (decodeStream_of_fits hp hf)
    rw [State.readBits_of_fits (by decide) (by decide) hf]
    rcases decodeTag_cases (operand 4 s.nextBits) with ⟨ht, h⟩ | ⟨ht, h⟩ | ⟨ht, h⟩ | ⟨ht, h⟩ | ⟨ht, h⟩
    case inr.inr.inr.inr =>
      obtain ⟨h0, h1, h2, h4⟩ := tag_setWidth_ne ht
      rw [h]
      dsimp only
      rw [if_neg h0, if_neg h1, if_neg h2, if_neg h4, raise_toNat, BitVec.setWidth_eq]
      rfl
    all_goals rw [h, ht]; rfl
  · cases hd.symm.trans (decodeStream_of_not_fits hp hf)
    rw [State.readBits_of_not_fits (by decide) (by decide) hf]
    rfl

/-- The element decoded at OFFSET runs as CoreStep (41_dispatcher.md R140). -/
theorem exec_eq_coreStep {i : Instr} (hd : decodeStream s.ctx s.nextBits = .ok i) :
    exec i s = .next (Pseudo.coreStep s) := by
  cases hp : s.phase with
  | dispatch =>
    rw [Pseudo.coreStep, hp]
    exact exec_tag_eq_pseudo hp hd
  | segLen =>
    rw [Pseudo.coreStep, hp]
    exact exec_len_eq_pseudo (decodeStream_segLen (c := s.ctx) hp s.nextBits ▸ hd)
  | segBody => exact exec_group_eq_coreStep hp (decodeStream_segBody (c := s.ctx) hp s.nextBits ▸ hd)
  | phase3 =>
    rw [decodeStream_phase3 hp] at hd
    cases hd

/-- Settles O37: outside the stuck states an element is decoded, and its row is the arm of CoreStep that fits. -/
theorem coreStepIsTheSpecsPseudocode : Obligations.CoreStepIsTheSpecsPseudocode := by
  intro s hc hs
  obtain ⟨i, hi⟩ := decodeStream_ok_of_not_stuck hs
  rw [step_core hc, hi]
  exact exec_eq_coreStep (s := s.popped) hi

end Sys2Proof.Machine
end

section
/-! PROOFS. The family of 42_numeric.md: what a group that completes leaves, the digits of the numeric groups, and the bytes
that a body step moves from REM to OUT_PTR. -/

namespace Sys2Proof.Machine

variable {s t : State}

/-! ## A group that completes -/

/-- A group whose bytes fit leaves all that GroupDone says (41_dispatcher.md R151, 45_accumulator.md R221). -/
theorem State.Sized.groupDone (hs : s.Sized) (hp : s.phase = .segBody) {w k : Nat} {bs : List Byte}
    (hf : s.fits w = true) (hc : s.outPtr.toNat + bs.length ≤ s.cfg.outCap) (hk : k ≤ s.rem.toNat) :
    GroupDone s (((s.advance w).appended bs).consume (BitVec.ofNat 16 k)) w k bs := by
  have hout : ((s.advance w).appended bs).outPtr.toNat = s.outPtr.toNat + bs.length :=
    State.Sized.appended_outPtr_toNat (s := s.advance w) hs hc
  have hoff := State.advance_offset_toNat hs ((State.fits_iff w s).mp hf)
  have hrem : (s.rem - BitVec.ofNat 16 k).toNat = s.rem.toNat - k := by
    rw [BitVec.toNat_sub, BitVec.toNat_ofNat]
    omega
  exact ⟨State.appended_outWritten bs (s.advance w), hout, hoff, hrem, fun h => if_pos h, fun h => (if_neg h).trans hp,
    fun _ => rfl, rfl⟩

/-- What a completed group moves: `k` from REM, and the number of its bytes to OUT_PTR (45_accumulator.md R226). -/
theorem GroupDone.outPtr_add_rem {w k : Nat} {bs : List Byte} (h : GroupDone s t w k bs) (hk : k ≤ s.rem.toNat) :
    t.outPtr.toNat + t.rem.toNat + k = s.outPtr.toNat + s.rem.toNat + bs.length := by
  obtain ⟨-, hout, -, hrem, -⟩ := h
  omega

/-- The last group of a segment may count REM down instead of ending the segment. -/
theorem append_endSegment {k : Nat} (h : s.rem.toNat = k) (bs : List Byte) :
    append bs State.endSegment s = append bs (State.consume (BitVec.ofNat 16 k)) s := by
  rw [append, append, State.endSegment_eq_consume (s := s.appended bs) h]

/-! ## Digits -/

theorem decimal_succ (k v : Nat) : decimal (k + 1) v = digit (v / 10 ^ k % 10) :: decimal k v := rfl

theorem decimal_one (v : Nat) : decimal 1 v = [digit (v % 10)] := by
  rw [decimal_succ, pow_zero, Nat.div_one]
  rfl

theorem decimal_two (v : Nat) : decimal 2 v = [digit (v / 10 % 10), digit (v % 10)] := by
  rw [decimal_succ, decimal_one, pow_one]

theorem decimal_three (v : Nat) : decimal 3 v = [digit (v / 100 % 10), digit (v / 10 % 10), digit (v % 10)] := by
  rw [decimal_succ, decimal_two]
  rfl

/-- The first digit of an over-range value below twice the range is 1: no group's field holds more (42_numeric.md R176). -/
theorem decimal_succ_of_overrange {k v : Nat} (h : 10 ^ k ≤ v) (h2 : v < 2 * 10 ^ k) :
    decimal (k + 1) v = digit 1 :: decimal k v := by
  rw [decimal_succ, Nat.div_eq_of_lt_le (by rwa [one_mul]) h2]

/-- DecDigits gives `k` bytes in range, and one more over range (42_numeric.md R175, R176). -/
theorem decDigits_length {ovr : Overrange} {v k : Nat} {bs : List Byte} (h : decDigits ovr v k = some bs) :
    bs.length = if 10 ^ k ≤ v then k + 1 else k := by
  by_cases hv : 10 ^ k ≤ v
  · rw [if_pos hv]
    cases ovr with
    | wide =>
      rw [decDigits_wide hv] at h
      cases h
      exact decimal_length (k + 1) v
    | fault =>
      rw [decDigits_fault hv] at h
      cases h
  · rw [decDigits_in_range ovr (Nat.not_le.mp hv)] at h
    cases h
    rw [if_neg hv]
    exact decimal_length k v

/-! ## Numeric groups -/

section NumericGroup

variable {w k v : Nat} {bs : List Byte} {done : State → State}

/-- A numeric group whose value has digits appends them. -/
theorem numericGroup_of_digits (hf : s.fits w = true) (hdig : decDigits s.cfg.numOvr v k = some bs) :
    numericGroup w k v done s = append bs done (s.advance w) := by
  rw [numericGroup, needBits_of_fits _ hf, State.advance_cfg, hdig]

/-- A numeric group after which the core is still BUSY had its bits, its digits, and room for them. -/
theorem numericGroup_busy (hb : (numericGroup w k v done s).st = .busy) :
    s.fits w = true ∧ ∃ bs, decDigits s.cfg.numOvr v k = some bs ∧ s.outPtr.toNat + bs.length ≤ s.cfg.outCap := by
  by_cases hf : s.fits w = true
  · refine ⟨hf, ?_⟩
    cases hdig : decDigits s.cfg.numOvr v k with
    | none =>
      rw [numericGroup, needBits_of_fits _ hf, State.advance_cfg, hdig] at hb
      cases hb
    | some bs =>
      rw [numericGroup_of_digits hf hdig] at hb
      rcases append_cases bs done (s.advance w) with ⟨hc, -⟩ | ⟨-, h⟩
      · exact ⟨bs, rfl, hc⟩
      · rw [h] at hb
        cases hb
  · rw [numericGroup, needBits_of_not_fits _ hf] at hb
    cases hb

/-- The last group of a numeric segment counts REM down like any other (42_numeric.md R172, R173). -/
theorem numericGroup_endSegment (h : s.rem.toNat = k) :
    numericGroup w k v State.endSegment s = numericGroup w k v (State.consume (BitVec.ofNat 16 k)) s := by
  have ha := append_endSegment (s := s.advance w) h
  simp only [numericGroup, needBits, ha]

end NumericGroup

/-- In `s`, whose MODE and REM select it, `i` is the numeric group of `w` bits with value `v`, which counts for `k` digits. -/
structure NumericRow (s : State) (i : Instr) (w k v : Nat) : Prop where
  phase : s.phase = .segBody
  le_rem : k ≤ s.rem.toNat
  exec_eq : exec i s = .next (numericGroup w k v (State.consume (BitVec.ofNat 16 k)) s)

/-- N3: NumTriple (42_numeric.md R171). -/
theorem numericRow_n3 {v : BitVec 10} (h : s.ctx.selects (.n3 v) = true) : NumericRow s (.n3 v) 10 3 v.toNat := by
  simp only [Ctx.selects, Bool.and_eq_true, beq_iff_eq, decide_eq_true_eq] at h
  obtain ⟨⟨hp, -⟩, hr⟩ := h
  exact ⟨hp, hr, rfl⟩

/-- N2: NumPair (42_numeric.md R172). -/
theorem numericRow_n2 {v : BitVec 7} (h : s.ctx.selects (.n2 v) = true) : NumericRow s (.n2 v) 7 2 v.toNat := by
  simp only [Ctx.selects, Bool.and_eq_true, beq_iff_eq] at h
  obtain ⟨⟨hp, -⟩, hr⟩ := h
  have hr : s.rem.toNat = 2 := congrArg BitVec.toNat hr
  exact ⟨hp, hr.ge, congrArg _ (numericGroup_endSegment hr)⟩

/-- N1: NumSingle (42_numeric.md R173). -/
theorem numericRow_n1 {v : BitVec 4} (h : s.ctx.selects (.n1 v) = true) : NumericRow s (.n1 v) 4 1 v.toNat := by
  simp only [Ctx.selects, Bool.and_eq_true, beq_iff_eq] at h
  obtain ⟨⟨hp, -⟩, hr⟩ := h
  have hr : s.rem.toNat = 1 := congrArg BitVec.toNat hr
  exact ⟨hp, hr.ge, congrArg _ (numericGroup_endSegment hr)⟩

/-- A numeric row with its bits, its digits and the room for them completes. -/
theorem NumericRow.groupDone {i : Instr} {w k v : Nat} {bs : List Byte} (h : NumericRow s i w k v) (hs : s.Sized)
    (hdig : decDigits s.cfg.numOvr v k = some bs) (hoff : s.offset.toNat + w ≤ 8 * s.inLen.toNat)
    (hc : s.outPtr.toNat + bs.length ≤ s.cfg.outCap) : ∃ t, exec i s = .next t ∧ GroupDone s t w k bs := by
  have hf := (State.fits_iff w s).mpr hoff
  refine ⟨_, h.exec_eq, ?_⟩
  rw [numericGroup_of_digits hf hdig, append_of_room (s := s.advance w) _ hc]
  exact hs.groupDone h.phase hf hc h.le_rem

/-- Settles O17: below 10^k the group's digits are the `k` decimal ones. -/
theorem numericGroupAppendsItsDigits : Obligations.NumericGroupAppendsItsDigits := by
  intro s hs
  refine ⟨fun v hsel hv hoff hc => (numericRow_n3 hsel).groupDone hs ?_ hoff hc,
    fun v hsel hv hoff hc => (numericRow_n2 hsel).groupDone hs ?_ hoff hc,
    fun v hsel hv hoff hc => (numericRow_n1 hsel).groupDone hs ?_ hoff hc⟩
  · rw [decDigits_in_range _ hv, decimal_three, Nat.mod_eq_of_lt (Nat.div_lt_of_lt_mul hv)]
  · rw [decDigits_in_range _ hv, decimal_two, Nat.mod_eq_of_lt (Nat.div_lt_of_lt_mul hv)]
  · rw [decDigits_in_range _ hv, decimal_one, Nat.mod_eq_of_lt hv]

/-- Settles O18: from 10^k on there is a leading 1 more, for no field holds twice as much. -/
theorem overrangeUnderWideAppendsAllDigits : Obligations.OverrangeUnderWideAppendsAllDigits := by
  intro s hs ho
  refine ⟨fun v hsel hv hoff hc => (numericRow_n3 hsel).groupDone hs ?_ hoff hc,
    fun v hsel hv hoff hc => (numericRow_n2 hsel).groupDone hs ?_ hoff hc,
    fun v hsel hv hoff hc => (numericRow_n1 hsel).groupDone hs ?_ hoff hc⟩
  · have hundreds : v.toNat / 100 % 10 = 0 := by omega
    rw [ho, decDigits_wide hv, decimal_succ_of_overrange hv (by omega), decimal_three, hundreds]
  · rw [ho, decDigits_wide hv, decimal_succ_of_overrange hv (by omega), decimal_two]
  · rw [ho, decDigits_wide hv, decimal_succ_of_overrange hv (by omega), decimal_one]

/-! ## From REM to OUT_PTR -/

/-- The width of the numeric group that REM selects, and the digits it counts for (30_encoding.md R106). -/
def State.numericShape (s : State) : Nat × Nat :=
  if 3 ≤ s.rem.toNat then (10, 3) else if s.rem = 2#16 then (7, 2) else (4, 1)

theorem State.numericShape_width (s : State) : 1 ≤ s.numericShape.1 ∧ s.numericShape.1 ≤ 16 := by
  unfold State.numericShape
  split_ifs <;> decide

theorem decodeGroup_num {c : Ctx} (hm : c.mode = .num) (h0 : c.rem ≠ 0#16) (bits : List Bool) :
    decodeGroup c bits =
      if 3 ≤ c.rem.toNat then .ok (.n3 (operand 10 bits))
      else if c.rem = 2#16 then .ok (.n2 (operand 7 bits)) else .ok (.n1 (operand 4 bits)) := by
  rw [decodeGroup, if_neg h0, hm]

/-- A body step in a numeric segment runs the row that REM selects, on the bits at OFFSET. -/
theorem step_numeric (hc : s.coreNext) (hp : s.phase = .segBody) (hm : s.mode = .num) (h0 : s.rem ≠ 0#16) :
    ∃ i, step s = exec i s.popped ∧
      NumericRow s.popped i s.numericShape.1 s.numericShape.2 (operand s.numericShape.1 s.nextBits).toNat := by
  have hrun : ∀ i, decodeGroup s.ctx s.nextBits = .ok i → step s = exec i s.popped ∧ s.popped.ctx.selects i = true := by
    intro i hd
    obtain ⟨-, hsel, -⟩ := decodeGroup_readFrom (c := s.ctx) hp hd
    exact ⟨by rw [step_core hc, decodeStream_segBody (c := s.ctx) hp, hd], hsel⟩
  have hg := decodeGroup_num (c := s.ctx) hm h0 s.nextBits
  have hshape : s.numericShape = if 3 ≤ s.rem.toNat then (10, 3) else if s.rem = 2#16 then (7, 2) else (4, 1) := rfl
  split_ifs at hg hshape <;> rw [hshape] <;> obtain ⟨hstep, hsel⟩ := hrun _ hg
  · exact ⟨_, hstep, numericRow_n3 hsel⟩
  · exact ⟨_, hstep, numericRow_n2 hsel⟩
  · exact ⟨_, hstep, numericRow_n1 hsel⟩

/-- A numeric row that leaves the core BUSY has completed, with a byte more than it counts for where it is over range. -/
theorem NumericRow.groupDone_of_busy {i : Instr} {w k v : Nat} (h : NumericRow s i w k v) (hs : s.Sized)
    (ht : exec i s = .next t) (hb : t.st = .busy) :
    s.fits w = true ∧ ∃ bs, GroupDone s t w k bs ∧ bs.length = if 10 ^ k ≤ v then k + 1 else k := by
  cases h.exec_eq.symm.trans ht
  obtain ⟨hf, bs, hdig, hc⟩ := numericGroup_busy hb
  obtain ⟨u, hu, hd⟩ := h.groupDone hs hdig ((State.fits_iff w s).mp hf) hc
  cases ht.symm.trans hu
  exact ⟨hf, bs, hd, decDigits_length hdig⟩

/-- A body step that leaves the core BUSY is a group that completes. -/
theorem CoreEffect.groupDone_of_busy (he : CoreEffect s t) (hs : s.Sized) (hp : s.phase = .segBody) (hb : t.st = .busy) :
    ∃ w k bs, GroupRow s w k bs.length ∧ GroupDone s t w k bs := by
  cases he with
  | group w k bs _ hf hr hc => exact ⟨w, k, bs, hr, hs.groupDone hp hf hc hr.le_rem⟩
  | segment _ hd | term hd | eos hd | unsupported _ hd | badVersion hd | length _ _ hd => rw [hp] at hd; cases hd
  | short | badNumber | badSymbol | overflow => cases hb

/-- Only a numeric group can append more bytes than it counts for (42_numeric.md R176, 43_alphanumeric.md R195, 44_byte.md R212). -/
theorem GroupRow.length_eq {w k len : Nat} (h : GroupRow s w k len) (hm : s.mode ≠ .num) : len = k := by
  simp only [GroupRow, hm, false_and, false_or] at h
  omega

/-- ReadBits of a field that fits gives a value of at least `m` exactly where the decoder's operand is one. -/
theorem State.readBits_ge_iff {n m : Nat} (h1 : 1 ≤ n) (h16 : n ≤ 16) (hf : s.fits n = true) :
    (∃ v : Half, (s.readBits n).1 = some v ∧ m ≤ v.toNat) ↔ m ≤ (operand n s.nextBits).toNat := by
  rw [State.readBits_of_fits h1 h16 hf, ← operand_setWidth_toNat h16]
  simp

/-- Settles O25: the step is a group that completes, so it moves `k` from REM and its bytes to OUT_PTR; a numeric one over range
has `k` + 1 of them, every other has `k`. -/
theorem bodyStepMovesRemToOutPtr : Obligations.BodyStepMovesRemToOutPtr := by
  intro s t hg hc hp hs hb
  have hsized : s.popped.Sized := hg.popped.sized
  by_cases hm : s.mode = .num
  · obtain ⟨i, hi, hrow⟩ := step_numeric hc hp hm (hg.bodyRem hc.2.1 hp)
    obtain ⟨hf, bs, hd, hlen⟩ := hrow.groupDone_of_busy hsized (hi.symm.trans hs) hb
    have hsum : t.outPtr.toNat + t.rem.toNat + s.numericShape.2 = s.outPtr.toNat + s.rem.toNat + bs.length :=
      hd.outPtr_add_rem hrow.le_rem
    obtain ⟨h1, h16⟩ := s.numericShape_width
    have hbig := State.readBits_ge_iff (s := s) (m := 10 ^ s.numericShape.2) h1 h16 hf
    refine ⟨fun h => ?_, fun h => ?_⟩
    · rw [if_neg fun hv => h ⟨hm, hbig.mpr hv⟩] at hlen
      omega
    · rw [if_pos (hbig.mp h.2)] at hlen
      omega
  · obtain ⟨w, k, bs, hr, hd⟩ := (step_coreEffect hc hs).groupDone_of_busy hsized hp hb
    have hsum : t.outPtr.toNat + t.rem.toNat + k = s.outPtr.toNat + s.rem.toNat + bs.length := hd.outPtr_add_rem hr.le_rem
    have hlen : bs.length = k := hr.length_eq hm
    exact ⟨fun _ => by omega, fun h => absurd h.1 hm⟩

end Sys2Proof.Machine
end

section
/-! PROOFS. The family of 43_alphanumeric.md: a pair and a single whose indices are in range. -/

namespace Sys2Proof.Machine

variable {s : State}

/-- An Append with room, at the end of a group of `w` bits that counts for `k` characters, completes the group. -/
theorem State.Sized.append_groupDone (hs : s.Sized) (hp : s.phase = .segBody) {w k : Nat} {bs : List Byte}
    (hf : s.fits w = true) (hc : s.outPtr.toNat + bs.length ≤ s.cfg.outCap) (hk : k ≤ s.rem.toNat) :
    GroupDone s (append bs (State.consume (BitVec.ofNat 16 k)) (s.advance w)) w k bs := by
  rw [append_of_room (s := s.advance w) _ hc]
  exact hs.groupDone hp hf hc hk

/-- Where A2 stands: in the body of a segment with a pair left (43_alphanumeric.md R191). -/
theorem phase_rem_of_selects_a2 {v : BitVec 11} (h : s.ctx.selects (.a2 v) = true) :
    s.phase = .segBody ∧ 2 ≤ s.rem.toNat := by
  simp only [Ctx.selects, Bool.and_eq_true, beq_iff_eq, decide_eq_true_eq] at h
  obtain ⟨⟨hp, -⟩, hr⟩ := h
  exact ⟨hp, hr⟩

/-- Where A1 stands: in the body of a segment with one character left (43_alphanumeric.md R191). -/
theorem phase_rem_of_selects_a1 {v : BitVec 6} (h : s.ctx.selects (.a1 v) = true) :
    s.phase = .segBody ∧ s.rem.toNat = 1 := by
  simp only [Ctx.selects, Bool.and_eq_true, beq_iff_eq] at h
  obtain ⟨⟨hp, -⟩, hr⟩ := h
  exact ⟨hp, congrArg BitVec.toNat hr⟩

/-- AlnumPair with a legal first index (43_alphanumeric.md R192). -/
theorem exec_a2_in_range {v : BitVec 11} (hf : s.fits 11 = true) (hv : v.toNat / 45 ≤ 44) :
    exec (.a2 v) s =
      .next (append [alpha (v.toNat / 45), alpha (v.toNat % 45)] (State.consume 2#16) (s.advance 11)) := by
  refine congrArg _ ((needBits_of_fits _ hf).trans ?_)
  exact if_neg (Nat.not_lt.mpr hv)

/-- AlnumSingle with a legal index (43_alphanumeric.md R193). -/
theorem exec_a1_in_range {v : BitVec 6} (hf : s.fits 6 = true) (hv : v.toNat ≤ 44) :
    exec (.a1 v) s = .next (append [alpha v.toNat] State.endSegment (s.advance 6)) := by
  refine congrArg _ ((needBits_of_fits _ hf).trans ?_)
  exact if_neg (Nat.not_lt.mpr hv)

/-- Settles O21: `c1` and `c2` are the quotient and the remainder of the pair's value by 45; a single ends its segment, which is
counting REM down from 1. -/
theorem alphanumericGroupAppendsItsSymbols : Obligations.AlphanumericGroupAppendsItsSymbols := by
  intro s hs
  refine ⟨fun v c1 c2 hsel h1 h2 hv hoff hc => ?_, fun v hsel hv hoff hc => ?_⟩
  · obtain ⟨hp, hr⟩ := phase_rem_of_selects_a2 hsel
    have hf := (State.fits_iff 11 s).mpr hoff
    have hdiv : v.toNat / 45 = c1 := by omega
    have hmod : v.toNat % 45 = c2 := by omega
    have hexec := exec_a2_in_range hf (hdiv.trans_le h1)
    rw [hdiv, hmod] at hexec
    exact ⟨_, hexec, hs.append_groupDone hp hf hc hr⟩
  · obtain ⟨hp, hr⟩ := phase_rem_of_selects_a1 hsel
    have hf := (State.fits_iff 6 s).mpr hoff
    have hexec := exec_a1_in_range hf hv
    rw [append_endSegment (s := s.advance 6) hr] at hexec
    exact ⟨_, hexec, hs.append_groupDone hp hf hc hr.ge⟩

end Sys2Proof.Machine
end

section

/-! PROOFS. The family of 44_byte.md: an octet of a byte segment. -/

namespace Sys2Proof.Machine

variable {s : State}

/-- Where B8 stands: in the body of a segment with an octet left (44_byte.md R211). -/
theorem phase_rem_of_selects_b8 {v : BitVec 8} (h : s.ctx.selects (.b8 v) = true) :
    s.phase = .segBody ∧ 1 ≤ s.rem.toNat := by
  simp only [Ctx.selects, Bool.and_eq_true, beq_iff_eq, decide_eq_true_eq] at h
  obtain ⟨⟨hp, -⟩, hr⟩ := h
  exact ⟨hp, hr⟩

/-- ByteStep with 8 bits left appends the octet itself, whatever its value (44_byte.md R211). -/
theorem exec_b8_of_fits (v : BitVec 8) (hf : s.fits 8 = true) :
    exec (.b8 v) s = .next (append [v] (State.consume 1#16) (s.advance 8)) :=
  congrArg _ (needBits_of_fits _ hf)

/-- Settles O23: the octet needs no range check, so an Append with room completes the group. -/
theorem octetIsAppendedUnchanged : Obligations.OctetIsAppendedUnchanged := by
  intro s v hs hsel hoff hc
  obtain ⟨hp, hr⟩ := phase_rem_of_selects_b8 hsel
  have hf := (State.fits_iff 8 s).mpr hoff
  exact ⟨_, exec_b8_of_fits v hf, hs.append_groupDone hp hf hc hr⟩

end Sys2Proof.Machine
end

section
/-! PROOFS. The family of 45_accumulator.md: output that does not fit, and what the host can see of OUT_MEM. -/

namespace Sys2Proof.Machine

variable {s : State}

/-! ## Output that does not fit -/

/-- An error raised once the group's field is read leaves all that GroupRaised says (60_exceptions.md R276). -/
theorem State.Sized.groupRaised (hs : s.Sized) {w : Nat} (hoff : s.offset.toNat + w ≤ 8 * s.inLen.toNat) (e : ErrCode)
    (info : Half) : GroupRaised s ((s.advance w).raise e info) w e info.toNat :=
  ⟨rfl, rfl, rfl, State.advance_offset_toNat hs hoff, fun _ => rfl, rfl⟩

/-- An Append without room, at the end of a group of `w` bits, raises and writes nothing (45_accumulator.md R221). -/
theorem State.Sized.append_groupRaised (hs : s.Sized) {w : Nat} {bs : List Byte} {done : State → State}
    (hoff : s.offset.toNat + w ≤ 8 * s.inLen.toNat) (hc : s.cfg.outCap < s.outPtr.toNat + bs.length) :
    GroupRaised s (append bs done (s.advance w)) w .outputOverflow 0 := by
  rw [append_of_no_room (s := s.advance w) _ hc]
  exact hs.groupRaised hoff .outputOverflow 0#16

/-- A numeric group without room for its digits raises: for `k` of them in range, for `k` + 1 over range under WIDE
(42_numeric.md R175, R176, 45_accumulator.md R221). -/
theorem State.Sized.numericGroup_groupRaised (hs : s.Sized) {w k v : Nat} {done : State → State}
    (hoff : s.offset.toNat + w ≤ 8 * s.inLen.toNat)
    (h : (v < 10 ^ k ∧ s.cfg.outCap < s.outPtr.toNat + k) ∨
      (10 ^ k ≤ v ∧ s.cfg.numOvr = .wide ∧ s.cfg.outCap < s.outPtr.toNat + (k + 1))) :
    GroupRaised s (numericGroup w k v done s) w .outputOverflow 0 := by
  have hf := (State.fits_iff w s).mpr hoff
  rcases h with ⟨hv, hc⟩ | ⟨hv, ho, hc⟩
  · rw [numericGroup_of_digits hf (decDigits_in_range _ hv)]
    exact hs.append_groupRaised hoff (by rwa [decimal_length])
  · rw [numericGroup_of_digits hf (by rw [ho, decDigits_wide hv])]
    exact hs.append_groupRaised hoff (by rwa [decimal_length])

/-- Settles O24: a legal value reaches the group's Append, which finds no room. -/
theorem outputThatDoesNotFitRaisesOverflow : Obligations.OutputThatDoesNotFitRaisesOverflow := by
  intro s hs
  refine ⟨fun v hoff h => ⟨_, rfl, hs.numericGroup_groupRaised hoff h⟩,
    fun v hoff h => ⟨_, rfl, hs.numericGroup_groupRaised hoff h⟩,
    fun v hoff h => ⟨_, rfl, hs.numericGroup_groupRaised hoff h⟩,
    fun v hv hoff hc => ?a2, fun v hv hoff hc => ?a1, fun v hoff hc => ?b8⟩
  case a2 => exact ⟨_, exec_a2_in_range ((State.fits_iff 11 s).mpr hoff) (by omega), hs.append_groupRaised hoff hc⟩
  case a1 => exact ⟨_, exec_a1_in_range ((State.fits_iff 6 s).mpr hoff) (by omega), hs.append_groupRaised hoff hc⟩
  case b8 => exact ⟨_, exec_b8_of_fits v ((State.fits_iff 8 s).mpr hoff), hs.append_groupRaised hoff hc⟩

/-! ## OUT_MEM outside DONE_OK -/

/-- The OUT window reads as 0 outside DONE_OK (20_memory.md R62, 45_accumulator.md R224). -/
theorem State.outWindowByte_of_not_doneOk (h : s.st ≠ .doneOk) : s.outWindowByte = fun _ => 0#8 :=
  funext fun _ => if_neg fun hg => h hg.1

/-- What a read of the OUT window answers outside DONE_OK (46_host_commands.md R248). -/
theorem exec_rdOut_of_not_doneOk (h : s.st ≠ .doneOk) (n : BusWidth) (j : BitVec 15) :
    exec (.rdOut n j) s = .next (s.respond (.read (windowWord (fun _ => 0#8) n j.toNat) false)) := by
  rw [← State.outWindowByte_of_not_doneOk h]
  rfl

/-- A reading of BIT_OFFSET does not look at OUT_MEM (10_state.md R37). -/
theorem State.bitOffsetRead_replaced_outMem (m : Memory) (s : State) :
    State.bitOffsetRead { s with outMem := m } = { s.bitOffsetRead with outMem := m } := by
  unfold State.bitOffsetRead
  split_ifs <;> rfl

/-- In `s`, OUT_MEM has no part in `i`: with other contents it does the same and leaves them. -/
def HidesOutMem (i : Instr) (s : State) : Prop :=
  ∃ t, exec i s = .next t ∧ ∀ m : Memory, exec i { s with outMem := m } = .next { t with outMem := m }

/-- A register read does not look at OUT_MEM (46_host_commands.md R245). -/
theorem rdReg_hidesOutMem (r : BitVec 4) (s : State) : HidesOutMem (.rdReg r) s := by
  refine ⟨s.registerRead r, rfl, fun m => congrArg Host.Outcome.next ?_⟩
  rw [State.registerRead, State.registerRead, State.bitOffsetRead_replaced_outMem]
  split_ifs <;> rfl

/-- A read outside DONE_OK: the one window onto OUT_MEM reads as 0. -/
theorem read_hidesOutMem (n : BusWidth) (a : Half) (h : s.st ≠ .doneOk) : HidesOutMem (decodeAccess (.read n a)) s := by
  rcases decodeAccess_cases (.read n a) with ⟨-, row, hm, -, hd⟩ | ⟨-, -, hd⟩ | ⟨-, -, -, hd⟩ | ⟨-, -, hd⟩ <;> rw [hd]
  · exact ⟨_, busErrRow_exec hm _ s, fun _ => busErrRow_exec hm _ _⟩
  · exact rdReg_hidesOutMem _ s
  · exact ⟨_, rfl, fun _ => rfl⟩
  · exact ⟨_, exec_rdOut_of_not_doneOk h n _, fun m => exec_rdOut_of_not_doneOk (s := { s with outMem := m }) h n _⟩

/-- RegWrite neither reads nor writes OUT_MEM (46_host_commands.md R241 to R244). -/
theorem regWrite_replaced_outMem (o : Nat) (v : Word) (m : Memory) (s : State) :
    Pseudo.regWrite o v { s with outMem := m } = { Pseudo.regWrite o v s with outMem := m } := by
  unfold Pseudo.regWrite Pseudo.start
  split
  -- CTRL, VERSION and IN_LEN are decided by the data or by STATE; IE and the rest are not.
  case h_1 | h_2 | h_3 => split_ifs <;> rfl
  case h_4 | h_5 => rfl

/-- InWindowWrite neither reads nor writes OUT_MEM (46_host_commands.md R246). -/
theorem inWindowWrite_replaced_outMem (j : Nat) (n : BusWidth) (v : Word) (m : Memory) (s : State) :
    Pseudo.inWindowWrite j n v { s with outMem := m } = { Pseudo.inWindowWrite j n v s with outMem := m } := by
  unfold Pseudo.inWindowWrite
  split_ifs <;> rfl

/-- A write, in every state: no window lets the host at OUT_MEM (46_host_commands.md R249). -/
theorem write_hidesOutMem (n : BusWidth) (a : Half) (v : Word) (s : State) : HidesOutMem (decodeAccess (.write n a v)) s := by
  have hmem : ∀ m, Pseudo.memWrite a n v { s with outMem := m } =
      ({ (Pseudo.memWrite a n v s).1 with outMem := m }, (Pseudo.memWrite a n v s).2) := by
    intro m
    unfold Pseudo.memWrite
    rw [regWrite_replaced_outMem, inWindowWrite_replaced_outMem]
    split_ifs <;> rfl
  exact ⟨_, hostWriteIsTheSpecsMemWrite s n a v, fun m => by rw [hostWriteIsTheSpecsMemWrite _ n a v, hmem]⟩

/-- Settles O47: no access outside DONE_OK has a part for OUT_MEM. -/
theorem outMemIsHiddenOutsideDoneOk : Obligations.OutMemIsHiddenOutsideDoneOk := by
  intro s t acc ht h
  have hides : HidesOutMem (decodeAccess acc) s := by
    cases acc with
    | read n a => exact read_hidesOutMem n a h
    | write n a v => exact write_hidesOutMem n a v s
  obtain ⟨s', hs', hall⟩ := hides
  exact ⟨s', _, hs', (congrArg _ ht).trans (hall t.outMem), rfl, rfl⟩

end Sys2Proof.Machine
end

section
/-! PROOFS. The family of 46_host_commands.md: the CTRL commands, register writes and reads, the buffer windows, and the
accesses that get a bus error. -/

namespace Sys2Proof.Machine

variable {s : State}

/-! ## Reads -/

/-- RegRead fits the host data word (20_memory.md R72). -/
theorem pseudoRegRead_lt (hl : s.cfg.legal = true) (o : Nat) : Pseudo.regRead o s < 2 ^ 32 := by
  obtain ⟨-, hi, -, ho⟩ := (legal_iff _).mp hl
  unfold Pseudo.regRead
  split
  case h_1 =>
    have := s.st.bits.isLt
    split_ifs <;> omega
  case h_9 | h_10 => omega
  case h_4 | h_8 | h_11 => split_ifs <;> omega
  all_goals omega

/-- The bytes of an access fit the host data word (20_memory.md R64). -/
theorem littleEndian_lt (byteOf : Nat → Byte) (n : BusWidth) (j : Nat) : Pseudo.littleEndian byteOf n j < 2 ^ 32 := by
  cases n <;> simp only [Pseudo.littleEndian] <;> omega

/-- What a window read returns, as a number (20_memory.md R64, R72). -/
theorem windowWord_toNat (byteOf : Nat → Byte) (n : BusWidth) (j : Nat) :
    (windowWord byteOf n j).toNat = Pseudo.littleEndian byteOf n j := by
  rw [windowWord_eq_littleEndian, BitVec.toNat_ofNat, Nat.mod_eq_of_lt (littleEndian_lt byteOf n j)]

/-- Settles O30: the row is the read of the register's address, and RegRead fits a word. -/
theorem registerReadReturnsItsValue : Obligations.RegisterReadReturnsItsValue := by
  intro s r hl hbusy
  have hoff : ¬ (s.st = .busy ∧ regAddr r = 0x1C#16) := fun ⟨hs, ha⟩ =>
    hbusy ⟨by rw [← extract_regAddr r, ha]; rfl, hs⟩
  have hr := regAddr_toNat r
  have hread := exec_readRegister (s := s) (a := regAddr r) hl (by omega) (by omega) hoff
  rw [decodeRegister, extract_regAddr, hr] at hread
  exact ⟨_, hread, by rw [BitVec.toNat_ofNat, Nat.mod_eq_of_lt (pseudoRegRead_lt hl _)]⟩

/-- Settles O33: the bytes are those of the IN window, packed little-endian. -/
theorem inWindowReadReturnsTheBytes : Obligations.InWindowReadReturnsTheBytes :=
  fun s n j _ => ⟨_, rfl, windowWord_toNat s.inWindowByte n j.toNat⟩

/-- With OUT_PTR inside OUT_MEM, STATE and OUT_PTR alone gate the OUT window (20_memory.md R62). -/
theorem State.outWindowByte_of_outPtr_le (h : s.outPtr.toNat ≤ s.cfg.outCap) :
    s.outWindowByte = fun a => if s.st = .doneOk ∧ a < s.outPtr.toNat then s.outByte a else 0#8 := by
  funext a
  have hgate : s.st = .doneOk ∧ a < s.outPtr.toNat ∧ a < s.cfg.outCap ↔ s.st = .doneOk ∧ a < s.outPtr.toNat :=
    and_congr_right fun _ => and_iff_left_of_imp fun ha => ha.trans_le h
  simp only [State.outWindowByte, hgate]

/-- Settles O34: a read packs the gated bytes, and a write only answers. -/
theorem outWindowIsGatedAndReadOnly : Obligations.OutWindowIsGatedAndReadOnly := by
  intro s n j h
  refine ⟨fun _ => ⟨_, rfl, ?_⟩, fun _ _ => rfl⟩
  rw [windowWord_toNat, State.outWindowByte_of_outPtr_le h]

/-! ## Writes -/

@[simp] theorem writeLanes_length (n : BusWidth) (v : Word) : (writeLanes n v).length = n.bytes := by
  simp [writeLanes]

theorem writeLanes_getElem? {n : BusWidth} {i : Nat} (v : Word) (h : i < n.bytes) :
    (writeLanes n v)[i]? = some (lane v i) := by
  simp [writeLanes, h]

theorem State.inWindowWrite_inMem (hb : s.st ≠ .busy) (n : BusWidth) (j : Nat) (v : Word) :
    (s.inWindowWrite n j v).inMem = Memory.putBelow s.cfg.inCap s.inMem j (writeLanes n v) := by
  rw [State.inWindowWrite, if_neg hb]

/-- What a write to the IN window does to every byte of IN_MEM (46_host_commands.md R246). -/
theorem State.inWindowWrite_inByte (n : BusWidth) (j : Nat) (v : Word) (s : State) (a : Nat) :
    (s.inWindowWrite n j v).inByte a =
      if s.st ≠ .busy ∧ j ≤ a ∧ a < j + n.bytes ∧ a < s.cfg.inCap then lane v (a - j) else s.inByte a := by
  by_cases hb : s.st = .busy
  · rw [State.inWindowWrite, if_pos hb, if_neg fun h => h.1 hb]
  · rw [State.inByte, State.inWindowWrite_inMem hb, State.inWindowWrite_past, Memory.byteAt_putBelow, writeLanes_length]
    by_cases ha : j ≤ a ∧ a < j + n.bytes ∧ a < s.cfg.inCap
    · rw [if_pos ha, if_pos ⟨hb, ha⟩, writeLanes_getElem? v (by omega), Option.getD_some]
    · rw [if_neg ha, if_neg fun h => ha h.2, State.inByte]

/-- Settles O32: the lanes of the word land in IN_MEM, and no other field changes. -/
theorem inWindowWriteStoresLittleEndian : Obligations.InWindowWriteStoresLittleEndian := by
  intro s n j v _
  refine ⟨_, rfl, rfl, fun a => ?_, ?_⟩
  · rw [← lane_eq]
    exact State.inWindowWrite_inByte n j.toNat v s a
  · unfold State.inWindowWrite
    split <;> rfl

/-- IN_LEN as a number after a write: the minimum fits its 16 bits (10_state.md R33). -/
theorem clampLength_toNat (cap : Nat) (w : Half) : (clampLength cap w).toNat = min w.toNat cap := by
  rw [clampLength, BitVec.toNat_ofNat, Nat.mod_eq_of_lt ((Nat.min_le_left _ _).trans_lt w.isLt)]

/-- Settles O29, register by register: VERSION and IN_LEN by whether the core is BUSY. -/
theorem registerWriteStoresItsField : Obligations.RegisterWriteStoresItsField := by
  intro s v
  refine ⟨⟨_, rfl, rfl, ?version⟩, fun _ => ⟨_, rfl, rfl, ?inLen⟩, ⟨_, rfl, rfl, ?intEn, rfl⟩,
    fun r _ => ⟨_, rfl, rfl, rfl⟩⟩
  case version =>
    by_cases hb : s.st = .busy
    · simp [State.setVersion, hb, State.respond]
    · simp [State.setVersion, hb, State.respond]
  case inLen =>
    by_cases hb : s.st = .busy
    · simp [State.setInLen, hb, State.respond]
    · simp [State.setInLen, hb, State.respond, clampLength_toNat]
  case intEn => simp [BitVec.getLsbD, Nat.testBit_zero]

/-! ## CTRL writes -/

/-- Settles O26, by whether the core is BUSY. -/
theorem startBeginsADecode : Obligations.StartBeginsADecode := by
  intro s hi
  refine ⟨_, rfl, rfl, fun hb => ?_, fun hb => ?_⟩
  · rw [State.startCommand, if_pos hb]
    rfl
  · rw [State.startCommand, if_neg hb]
    exact ⟨rfl, rfl, rfl, rfl, rfl, rfl, rfl, fun _ => rfl, fun _ => rfl, rfl⟩

/-- Settles O27: CLEAR looks neither at STATE nor at the other bits of the write. -/
theorem clearGoesToIdle : Obligations.ClearGoesToIdle :=
  fun _ _ _ => ⟨_, rfl, rfl, rfl, rfl, rfl, rfl, rfl, rfl, rfl, fun _ => rfl, fun _ => rfl, rfl⟩

/-- A 32-bit write to 0x0000 is the command of its data (46_host_commands.md R241 to R243). -/
theorem decodeAccess_ctrl (v : Word) : decodeAccess (.write .w32 0x0000#16 v) = decodeCtrl v :=
  decodeAccess_writeReg 0#4 v

/-- Settles O28, by the two low bits; no command looks at the others. -/
theorem ctrlWriteIsDecidedByTwoBits : Obligations.CtrlWriteIsDecidedByTwoBits := by
  intro v s
  rw [decodeAccess_ctrl, decodeCtrl]
  refine ⟨fun h1 => ?clear, fun h1 h0 => ?start, fun h1 h0 => ⟨?nop, _, rfl, rfl, rfl⟩⟩
  case clear => rw [if_pos h1]; rfl
  case start => rw [if_neg (Bool.eq_false_iff.mp h1), if_pos h0]; rfl
  case nop => rw [if_neg (Bool.eq_false_iff.mp h1), if_neg (Bool.eq_false_iff.mp h0)]; rfl

/-! ## Bus errors -/

/-- BUSERR answers as MemRead and MemWrite say (20_memory.md R72, R73). -/
theorem State.busError_eq_respond (acc : HostAccess) (s : State) : s.busError acc = s.respond (busErrResponse acc) := by
  cases acc <;> rfl

/-- Settles O35: the twelve rows are those of the decoder. -/
theorem busErrorRowsChangeNothing : Obligations.BusErrorRowsChangeNothing := by
  intro row acc s hrow _
  obtain ⟨entry, hm, rfl⟩ : ∃ entry ∈ busErrRows, entry.2 = row := List.mem_map.mp hrow
  rw [busErrRow_exec hm, State.busError_eq_respond]
  rfl

/-- An access of the listed cases answers BUSERR and does nothing else (46_host_commands.md R250). -/
theorem exec_of_bad {acc : HostAccess} (hb : acc.Bad) (s : State) :
    exec (decodeAccess acc) s = .next (s.respond (busErrResponse acc)) := by
  rcases decodeAccess_cases acc with ⟨-, row, hm, -, h⟩ | ⟨hn, -⟩ | ⟨hn, -⟩ | ⟨hn, -⟩
  · rw [h, busErrRow_exec hm, State.busError_eq_respond]
  all_goals exact absurd hb hn

/-- An access outside the listed cases answers OK (46_host_commands.md R250). -/
theorem exec_of_not_bad {acc : HostAccess} (hb : ¬ acc.Bad) (s : State) :
    ∃ t, exec (decodeAccess acc) s = .next t ∧ t.resp ≠ some (busErrResponse acc) := by
  cases acc with
  | read n a =>
    have hok : ∀ d, some (Response.read d false) ≠ some (busErrResponse (.read n a)) := nofun
    rcases decodeAccess_cases (.read n a) with ⟨h, -⟩ | ⟨-, -, h⟩ | ⟨-, -, -, h⟩ | ⟨-, -, h⟩
    · exact absurd h hb
    all_goals exact ⟨_, congrArg (exec · s) h, hok _⟩
  | write n a v =>
    refine ⟨_, hostWriteIsTheSpecsMemWrite s n a v, ?_⟩
    rw [memWrite_ok hb]
    nofun

/-- Settles O36: BUSERR exactly where the access is `Bad`. -/
theorem busErrorInExactlyTheListedCases : Obligations.BusErrorInExactlyTheListedCases := by
  intro acc s
  by_cases hb : acc.Bad
  · exact ⟨_, exec_of_bad hb s, iff_of_true rfl hb, fun _ => rfl⟩
  · obtain ⟨t, ht, hok⟩ := exec_of_not_bad hb s
    exact ⟨t, ht, iff_of_false hok hb, fun h => absurd h hok⟩

end Sys2Proof.Machine
end

section
/-! PROOFS. The family of 60_exceptions.md: what raises each error, what taking one leaves alone, and the interrupt line. -/

namespace Sys2Proof.Machine

variable {s t : State}

/-! ## UnsupportedVersion and UnsupportedMode -/

/-- A length step with VERSION outside 1..40 runs LEN.BADVERSION, whatever MODE and the bits left (41_dispatcher.md R149). -/
theorem step_badVersion (hc : s.coreNext) (hp : s.phase = .segLen) (hv : s.version.toNat = 0 ∨ 41 ≤ s.version.toNat) :
    step s = exec .lenBadVersion s.popped := by
  have hd : decodeStream s.ctx s.nextBits = .ok .lenBadVersion := by
    rw [decodeStream_segLen (c := s.ctx) hp, decodeLen, band_eq_none hv]
  rw [step_core hc, hd]

/-- Settles O16: the version is tested before the length field is decoded, and the row only raises. -/
theorem badVersionRaisesUnsupportedVersion : Obligations.BadVersionRaisesUnsupportedVersion :=
  fun _ hc hp hv =>
    ⟨_, step_badVersion hc hp hv, rfl, rfl, rfl, rfl, BitVec.toNat_setWidth_of_le (by decide), rfl⟩

/-- Settles O13: each of the twelve tags has its own row, which raises with that tag. -/
theorem unsupportedTagRaisesUnsupportedMode : Obligations.UnsupportedTagRaisesUnsupportedMode := by
  intro s i v hs hc hp hi hv
  obtain ⟨hf, hstep⟩ := step_tag hc hp hv
  have hrow : decodeTag (v.setWidth 4) = i ∧ exec i s.popped = .next (unsupportedTag v s.popped) := by
    simp only [List.mem_cons, List.not_mem_nil, or_false] at hi
    rcases hi with h | h | h | h | h | h | h | h | h | h | h | h <;> cases h <;> exact ⟨rfl, rfl⟩
  obtain ⟨hdec, hexec⟩ := hrow
  rw [hdec] at hstep
  exact ⟨_, hstep.trans hexec, hexec, rfl, rfl, rfl, rfl, tag_offset_toNat hs hf, rfl⟩

/-! ## InsufficientBits -/

/-- `i` is a row with a field of `w` bits, none wider than 16: it reads them first, and raises where they are not left. -/
structure ReadsField (i : Instr) (w : Nat) : Prop where
  width_le : w ≤ 16
  exec_eq : ∃ k, ∀ s, exec i s = .next (needBits w k s)

/-- Each LEN row with a length field reads it (41_dispatcher.md R148). -/
theorem readsField_of_lengthRow {i : Instr} {w l : Nat} (h : lengthRow i = some (w, l)) : ReadsField i w := by
  obtain ⟨v, -, hexec⟩ := exec_lengthRow h
  refine ⟨?_, State.loadLength v, hexec⟩
  unfold lengthRow at h
  split at h <;> cases h <;> decide

/-- A row whose field is short raises InsufficientBits with its width, and OFFSET stands (40_bit_cursor.md R122). -/
theorem ReadsField.exec_short {i : Instr} {w : Nat} (h : ReadsField i w) (hshort : 8 * s.inLen.toNat < s.offset.toNat + w) :
    exec i s = .next (s.raise .insufficientBits (BitVec.ofNat 16 w)) := by
  obtain ⟨k, hexec⟩ := h.exec_eq
  rw [hexec, needBits_of_not_fits k (mt (State.fits_iff w s).mp (Nat.not_le.mpr hshort))]

/-- The only error of a step at a tag is UnsupportedMode (41_dispatcher.md R141, 60_exceptions.md R272). -/
theorem CoreEffect.errCode_of_dispatch (he : CoreEffect s t) (hb : s.st = .busy) (hp : s.phase = .dispatch)
    (ht : t.st = .doneErr) : t.errCode = .unsupportedMode := by
  cases he with
  | unsupported => rfl
  | segment => cases hb.symm.trans ht
  | term | eos => cases ht
  | short _ hd => exact absurd hp hd
  | badVersion hd | length _ _ hd | badNumber _ _ _ hd | badSymbol _ _ hd | overflow _ _ _ hd | group _ _ _ hd =>
    cases hp.symm.trans hd

/-- Settles O15: the fifteen rows read their field first; at a tag the step has no other error than UnsupportedMode. -/
theorem shortReadRaisesInsufficientBits : Obligations.ShortReadRaisesInsufficientBits := by
  refine ⟨fun s i w hrow hshort => ?short, fun s t hc hp hs ht => ?tag⟩
  case short =>
    have hreads : ReadsField i w := by
      rcases hrow with ⟨l, h⟩ | ⟨v, rfl, rfl⟩ | ⟨v, rfl, rfl⟩ | ⟨v, rfl, rfl⟩ | ⟨v, rfl, rfl⟩ | ⟨v, rfl, rfl⟩ | ⟨v, rfl, rfl⟩
      · exact readsField_of_lengthRow h
      all_goals exact ⟨by decide, _, fun _ => rfl⟩
    have hw := hreads.width_le
    refine ⟨_, hreads.exec_short hshort, rfl, rfl, rfl, ?_, rfl⟩
    exact Nat.mod_eq_of_lt (by omega)
  case tag =>
    rw [(step_coreEffect hc hs).errCode_of_dispatch hc.2.1 hp ht]
    decide

/-! ## InvalidAlphanumericValue -/

/-- AlnumPair with a first index above 44 (43_alphanumeric.md R192). -/
theorem exec_a2_out_of_range {v : BitVec 11} (hf : s.fits 11 = true) (hv : 44 < v.toNat / 45) :
    exec (.a2 v) s = .next ((s.advance 11).raise .invalidAlphanumericValue (v.setWidth 16)) := by
  refine congrArg _ ((needBits_of_fits _ hf).trans ?_)
  exact if_pos hv

/-- AlnumSingle with an index above 44 (43_alphanumeric.md R193). -/
theorem exec_a1_out_of_range {v : BitVec 6} (hf : s.fits 6 = true) (hv : 44 < v.toNat) :
    exec (.a1 v) s =
      .next ((s.advance 6).raise .invalidAlphanumericValue (0x8000#16 ||| v.setWidth 16)) := by
  refine congrArg _ ((needBits_of_fits _ hf).trans ?_)
  exact if_pos hv

/-- ERR_INFO of a single as a number: bit 15 lies above the index (60_exceptions.md R274). -/
theorem singleInfo_toNat (v : BitVec 6) : (0x8000#16 ||| v.setWidth 16).toNat = 0x8000 + v.toNat := by
  rw [singleInfo_eq]
  exact Nat.mod_eq_of_lt (by omega)

/-- Settles O22: 2025 is 45 · 45, so the pair's first index is above 44; a single is its own index. -/
theorem badAlphanumericValueRaises : Obligations.BadAlphanumericValueRaises := by
  intro s hs
  refine ⟨fun v hv hoff => ⟨_, exec_a2_out_of_range ((State.fits_iff 11 s).mpr hoff) (by omega), ?pair⟩,
    fun v hv hoff => ⟨_, exec_a1_out_of_range ((State.fits_iff 6 s).mpr hoff) hv, ?single⟩⟩
  case pair =>
    have h := hs.groupRaised hoff .invalidAlphanumericValue (v.setWidth 16)
    rwa [BitVec.toNat_setWidth_of_le (by decide)] at h
  case single =>
    have h := hs.groupRaised hoff .invalidAlphanumericValue (0x8000#16 ||| v.setWidth 16)
    rwa [singleInfo_toNat] at h

/-! ## InvalidNumericValue -/

/-- ERR_INFO of InvalidNumericValue as a number: the digit count above the 12 bits of the value (60_exceptions.md R275). -/
theorem numericInfo_toNat {v k : Nat} (hk : k < 16) (hv : v < 2 ^ 12) : (numericInfo v k).toNat = k * 4096 + v := by
  rw [numericInfo_eq k hv]
  exact Nat.mod_eq_of_lt (by omega)

/-- A numeric group over range raises under FAULT once its field is read (42_numeric.md R176). -/
theorem State.Sized.numericGroup_fault (hs : s.Sized) {w k v : Nat} {done : State → State} (ho : s.cfg.numOvr = .fault)
    (hv : 10 ^ k ≤ v) (hoff : s.offset.toNat + w ≤ 8 * s.inLen.toNat) (hk : k < 16) (h12 : v < 2 ^ 12) :
    GroupRaised s (numericGroup w k v done s) w .invalidNumericValue (k * 4096 + v) := by
  have hf := (State.fits_iff w s).mpr hoff
  rw [numericGroup, needBits_of_fits _ hf, State.advance_cfg, ho, decDigits_fault hv, ← numericInfo_toNat hk h12]
  exact hs.groupRaised hoff _ _

/-- What ReadBits answers depends on the bits at OFFSET alone. -/
theorem State.readBits_fst (n : Nat) (s : State) : (s.readBits n).1 = (takeField n s.nextBits).map (BitVec.ofNat 16) := by
  rw [State.readBits]
  cases takeField n s.nextBits <;> rfl

/-- A value that ReadBits answers has no more bits than were read. -/
theorem State.readBits_lt {n : Nat} {v : Half} (h : (s.readBits n).1 = some v) : v.toNat < 2 ^ n := by
  rw [State.readBits_fst, takeField] at h
  split at h
  · cases h
  · cases h
    calc (BitVec.ofNat 16 (bitsVal (s.nextBits.take n))).toNat
      _ ≤ bitsVal (s.nextBits.take n) := Nat.mod_le _ _
      _ < 2 ^ (s.nextBits.take n).length := bitsVal_lt _
      _ ≤ 2 ^ n := Nat.pow_le_pow_right (by decide) (List.length_take_le _ _)

/-- A numeric group has the width and the digits that REM selects (30_encoding.md R106). -/
theorem GroupRow.numericShape_eq {w k len : Nat} (h : GroupRow s w k len) (hm : s.mode = .num) :
    s.numericShape = (w, k) := by
  have h2 : s.rem = 2#16 ↔ s.rem.toNat = 2 := BitVec.toNat_inj.symm
  simp only [GroupRow, hm, true_and, reduceCtorEq, false_and, or_false] at h
  rw [State.numericShape]
  rcases h with ⟨rfl, rfl, hr, -⟩ | ⟨rfl, rfl, hr, -⟩ | ⟨rfl, rfl, hr, -⟩
  · rw [if_pos hr]
  · rw [if_neg (by omega), if_pos (h2.mpr hr)]
  · rw [if_neg (by omega), if_neg (mt h2.mp (by omega))]

/-- The group that REM selects stands for at most 3 digits, in a field of at most 10 bits (30_encoding.md R97). -/
theorem State.numericShape_le (s : State) : s.numericShape.1 ≤ 10 ∧ s.numericShape.2 ≤ 3 := by
  unfold State.numericShape
  split_ifs <;> decide

/-- A core step raises InvalidNumericValue only under FAULT, for an over-range group of a numeric body (60_exceptions.md R275). -/
theorem CoreEffect.badNumber_of_errCode (he : CoreEffect s t) (hb : s.st = .busy) (ht : t.st = .doneErr)
    (hcode : t.errCode = .invalidNumericValue) :
    s.cfg.numOvr = .fault ∧ s.phase = .segBody ∧ s.mode = .num ∧ ∃ v : Half,
      (s.readBits s.numericShape.1).1 = some v ∧ 10 ^ s.numericShape.2 ≤ v.toNat ∧
        t.errInfo.toNat = s.numericShape.2 * 4096 + v.toNat := by
  cases he with
  | badNumber w k v hp _ _ _ ho hm hr hv hge =>
    have hshape := hr.numericShape_eq hm
    obtain ⟨hw, hk⟩ := s.numericShape_le
    simp only [hshape] at hw hk ⊢
    have h12 : v.toNat < 2 ^ 12 := (State.readBits_lt hv).trans_le (Nat.pow_le_pow_right (by decide) (by omega))
    exact ⟨ho, hp, hm, v, hv, hge, numericInfo_toNat (by omega) h12⟩
  | segment | length | group => cases hb.symm.trans ht
  | term | eos => cases ht
  | unsupported | badVersion | short | badSymbol | overflow => cases hcode

/-- Settles O19: an over-range value has no digits under FAULT, and no other element raises this error. -/
theorem overrangeUnderFaultRaises : Obligations.OverrangeUnderFaultRaises := by
  refine ⟨fun s hs ho => ⟨fun v hv hoff => ?n3, fun v hv hoff => ?n2, fun v hv hoff => ?n1⟩,
    fun s t hc hs ht hcode => ?only⟩
  case n3 => exact ⟨_, rfl, hs.numericGroup_fault (k := 3) ho hv hoff (by decide) (by omega)⟩
  case n2 => exact ⟨_, rfl, hs.numericGroup_fault (k := 2) ho hv hoff (by decide) (by omega)⟩
  case n1 =>
    have h := hs.numericGroup_fault (k := 1) (done := State.endSegment) ho hv hoff (by decide) (by omega)
    rw [one_mul] at h
    exact ⟨_, rfl, h⟩
  case only =>
    obtain ⟨ho, hp, hm, v, hv, hge, hinfo⟩ := (step_coreEffect hc hs).badNumber_of_errCode hc.2.1 ht hcode
    rw [State.readBits_fst] at hv
    exact ⟨ho, hp, hm, v, (State.readBits_fst _ s).trans hv, hge, hinfo⟩

/-! ## Taking an error -/

/-- A core step that ends in DONE_ERR takes one of the six errors, where OFFSET was or after a field (60_exceptions.md R276). -/
theorem CoreEffect.eq_raise (he : CoreEffect s t) (hb : s.st = .busy) (ht : t.st = .doneErr) :
    ∃ e info, e ≠ .none ∧ (t = s.raise e info ∨ ∃ w, t = (s.advance w).raise e info) := by
  cases he with
  | badVersion | short => exact ⟨_, _, by decide, .inl rfl⟩
  | unsupported | badNumber | badSymbol | overflow => exact ⟨_, _, by decide, .inr ⟨_, rfl⟩⟩
  | segment | length | group => cases hb.symm.trans ht
  | term | eos => cases ht

/-- The six errors have the codes 1 to 6 (60_exceptions.md R270). -/
theorem ErrCode.bits_range {e : ErrCode} (h : e ≠ .none) : 1 ≤ e.bits.toNat ∧ e.bits.toNat ≤ 6 := by
  cases e with
  | none => exact absurd rfl h
  | _ => decide

/-- Settles O53: the step takes an error, which writes only STATE, ERR_CODE and ERR_INFO, after OFFSET at most. -/
theorem raiseKeepsAllButTheError : Obligations.RaiseKeepsAllButTheError := by
  intro s t hc hs ht
  obtain ⟨e, info, he, hraise⟩ := (step_coreEffect hc hs).eq_raise hc.2.1 ht
  obtain ⟨h1, h6⟩ := ErrCode.bits_range he
  rcases hraise with rfl | ⟨w, rfl⟩ <;> exact ⟨h1, h6, rfl, rfl, rfl, rfl, fun _ => rfl, fun _ => rfl, rfl⟩

/-! ## The interrupt line -/

/-- irq as a function of IE and STATE (60_exceptions.md R283). -/
theorem State.irq_iff (s : State) : s.irq = true ↔ s.ie = true ∧ (s.st = .doneOk ∨ s.st = .doneErr) := by
  simp [State.irq]

/-- irq is low in IDLE and while BUSY. -/
theorem State.irq_of_not_done (h : s.st = .idle ∨ s.st = .busy) : s.irq = false := by
  rcases h with h | h <;> simp [State.irq, h]

/-- In a DONE state irq is IE. -/
theorem State.irq_of_done (h : s.st = .doneOk ∨ s.st = .doneErr) : s.irq = s.ie := by
  rcases h with h | h <;> simp [State.irq, h]

/-- With IE 0 irq is low in every state. -/
theorem State.irq_of_not_ie (h : s.ie = false) : s.irq = false := by rw [State.irq, h, Bool.false_and]

/-- After START the core is BUSY: it was already, or a decode begins (46_host_commands.md R241). -/
theorem State.startCommand_st (s : State) : s.startCommand.st = .busy := by
  unfold State.startCommand
  split
  · assumption
  · rfl

/-- Bit 2 of STATUS is IRQ (10_state.md R30). -/
theorem statusWord_getLsbD_two (s : State) : s.statusWord.getLsbD 2 = s.irq := by
  simp only [State.statusWord, BitVec.getLsbD_append]
  simp

/-- Settles O52: a core step that leaves BUSY leaves IE, START and CLEAR leave the DONE states, and an even write clears IE. -/
theorem interruptLineFollowsCompletion : Obligations.InterruptLineFollowsCompletion := by
  refine ⟨State.irq_iff, fun s t hc hs hend => ?rise, fun s t hi hs => ?start, fun s t lo hi hs => ?clear,
    fun s t v hv hs => ?intEn, fun s t hs => ?status⟩
  case rise =>
    have he := step_coreEffect hc hs
    obtain ⟨-, -, hie, -⟩ := he.keeps_inputs
    have hdone : t.st = .doneOk ∨ t.st = .doneErr := he.st_cases.resolve_left fun h => hend (h.trans hc.2.1)
    exact ⟨State.irq_of_not_done (.inr hc.2.1), (State.irq_of_done hdone).trans hie⟩
  case start =>
    cases hs
    exact State.irq_of_not_done (.inr s.startCommand_st)
  case clear =>
    cases hs
    exact State.irq_of_not_done (.inl rfl)
  case intEn =>
    cases hs
    have hbit : v.getLsbD 0 = false := by simp [BitVec.getLsbD, Nat.testBit_zero, hv]
    exact State.irq_of_not_ie hbit
  case status =>
    cases hs
    exact ⟨s.statusWord, rfl, statusWord_getLsbD_two s⟩

end Sys2Proof.Machine
end

section
/-! PROOFS. The family of 70_reset_and_hazards.md: rst, whatever it interrupts. -/

namespace Sys2Proof.Machine

/-- A step that is rst, a decode in progress included (70_reset_and_hazards.md R300). -/
theorem step_rst {s : State} {rest : List Event} (hl : s.cfg.legal = true) (hp : s.pending = .rst :: rest) :
    step s = .next s.popped.rstOp := by
  rw [step, if_pos hl, State.popped_of_cons hp, State.nextTurn, hp]

/-- After rst the OUT window reads as 0, for the core is in IDLE (45_accumulator.md R224). -/
theorem State.rstOp_outWindowByte (s : State) (j : Nat) : s.rstOp.outWindowByte j = 0#8 :=
  congrFun (State.outWindowByte_of_not_doneOk (by simp)) j

/-- Settles O2: the step is rst's, whose effect looks at STATE nowhere, and no byte has been written since. -/
theorem rstResetsFromAnyState : Obligations.RstResetsFromAnyState := by
  intro s rest hl hp
  refine ⟨s.popped.rstOp, step_rst hl hp, ?state, State.rstOp_inByte _, State.rstOp_outByte _,
    State.rstOp_outWindowByte _⟩
  case state =>
    rw [State.popped_of_cons hp]
    rfl

end Sys2Proof.Machine
end
